-- ==== Sys2Proof/Word.lean ====
section
/-! DEFINITION. The two widths of the core's values (spec/00_scope.md R12): bytes and 16-bit words, both unsigned. -/

namespace Sys2Proof

/-- A byte: 8 bits, bit 7 the most significant (R12). -/
abbrev Byte := BitVec 8

/-- A 16-bit word: `CRC`, the trailer and `ECHO` (R34, R39). -/
abbrev Word := BitVec 16

end Sys2Proof
end

