-- ==== Sys2Proof/Config.lean ====
section
/-! DEFINITION. The implementation parameters (spec/00_scope.md R10) as plain data. They are fixed for the life of a
model instance (R11). DESIGN CHOICE (log entry 1): the record rides in State, where no step writes it, so that every
statement over all states is a statement over all configurations. Safe. -/

namespace Sys2Proof

/-- `CRC_ALGO`: the polynomial and the bit order of the CRC-16 (spec/40_crc.md R121; spec/92_eei_decisions.md D1).
`poly` is the constant XORed in: reflected when `lsbFirst`. DESIGN CHOICE (log entry 2): the parameter is these two
data, not an arbitrary function. -/
structure CrcAlgo where
  poly : Word
  lsbFirst : Bool
  deriving DecidableEq, Repr

/-- The 1-Wire CRC-16 of R121: reflected constant `0xA001`, least significant bit first. -/
def CrcAlgo.oneWire : CrcAlgo := { poly := 0xA001, lsbFirst := true }

/-- `TYPE_IMPL[t]`: the implementation of a tag (spec/41_dispatch_registry.md R133). -/
inductive TypeImpl where
  | port
  | dummy
  | external
  deriving DecidableEq, Repr

/-- The parameters of R10. `N_TYPES` is the length of `typeImpl`: tags are dense and equal table positions (R71, R135). -/
structure Config where
  /-- `N_PORT`, 1..255. -/
  nPort : Nat
  /-- `TYPE_IMPL`, entry t at position t. -/
  typeImpl : List TypeImpl
  /-- `PORT_TAG`. -/
  portTag : Byte
  /-- `MAX_PAYLOAD`. -/
  maxPayload : Nat
  /-- `COND_SEARCH_EN`. -/
  condSearchEn : Bool
  /-- `CRC_ALGO`. -/
  crcAlgo : CrcAlgo
  /-- `PORT_INIT_FLAGS`, entry i at position i; an entry not listed is the default 0x00. -/
  portInitFlags : List Byte
  deriving DecidableEq, Repr

/-- `N_TYPES`, the registry's size (R10, R70). -/
def Config.nTypes (c : Config) : Nat := c.typeImpl.length

/-- `ceil(n/8)` of R12. -/
def ceilDiv8 (n : Nat) : Nat := (n + 7) / 8

/-- The default configuration of R10: three ports, six tags with the port at tag 2 and every other tag `DUMMY`, a
32-byte buffer, conditional search enabled, the 1-Wire CRC-16, every initial flags byte 0x00. -/
def Config.default : Config where
  nPort := 3
  typeImpl := [.dummy, .dummy, .port, .dummy, .dummy, .dummy]
  portTag := 2
  maxPayload := 32
  condSearchEn := true
  crcAlgo := .oneWire
  portInitFlags := []

end Sys2Proof
end

