-- ==== Sys2Proof/Syntax.lean ====
section
/-! DEFINITION. The instructions: one transaction on the wire each (spec/00_scope.md R4), one constructor per row of
spec/opcode_table.json. The byte `PORT_TAG` of a port row is a parameter of the configuration, so it is no operand. -/

namespace Sys2Proof

/-- A transaction the initiator can start, with the operand bytes it sends (spec/30_encoding.md R92 to R98, R109, R112). -/
inductive Instr where
  /-- `F2 t c`: generic read of device type `t`, channel `c` (R93, R162). -/
  | genericRead (t c : Byte)
  /-- `F4 t ...`: generic write to device type `t`; the bytes after the tag are the device type's own (R96, R182). -/
  | genericWrite (t : Byte)
  /-- `b`: a function code other than `F2` and `F4` (R109, R140). -/
  | unknownFunction (b : Byte)
  /-- `F2 PORT_TAG 00`: the port level bitmap (R105, R201). -/
  | pbitmap
  /-- `F2 PORT_TAG k`: the status byte of port `k - 1` (R106, R202). -/
  | preadStatus (k : Byte)
  /-- `F4 PORT_TAG k 01 v`: command the logical value of port `k - 1` (R97, R179). -/
  | pset (k v : Byte)
  /-- `F4 PORT_TAG k 02 v m`: masked write of the flags of port `k - 1` (R98, R180). -/
  | pflags (k v m : Byte)
  /-- `F4 PORT_TAG k n`, `n` neither 1 nor 2: a port write of reserved length (R112, R175). -/
  | portWriteBadLength (k n : Byte)
  deriving DecidableEq, Repr

end Sys2Proof
end

