-- ==== Sys2Proof/WellFormed.lean ====
section
/-! DEFINITION. What a legal configuration is (spec/00_scope.md R10, spec/41_dispatch_registry.md R135) and which
instruction terms are canonical: the term the decoder gives for the bytes. Both are Bool, so that they run. -/

namespace Sys2Proof

/-- `N_PORT` is in 1..255 (R10). -/
def Config.nPortOk (c : Config) : Bool := decide (1 ≤ c.nPort) && decide (c.nPort ≤ 255)

/-- `N_TYPES` is in 1..256 (R10). -/
def Config.nTypesOk (c : Config) : Bool := decide (1 ≤ c.nTypes) && decide (c.nTypes ≤ 256)

/-- Exactly one tag is `PORT`, and it is `PORT_TAG` (R10, R133, R135). -/
def Config.portTagOk (c : Config) : Bool :=
  (List.range c.nTypes).all (fun t => (c.typeImpl[t]? == some TypeImpl.port) == (t == c.portTag.toNat))
    && decide (c.portTag.toNat < c.nTypes)

/-- `MAX_PAYLOAD` is at least `max(2, ceil(N_PORT/8))` and at most 255 (R10, R74). -/
def Config.maxPayloadOk (c : Config) : Bool :=
  decide (2 ≤ c.maxPayload) && decide (ceilDiv8 c.nPort ≤ c.maxPayload) && decide (c.maxPayload ≤ 255)

/-- `PORT_INIT_FLAGS` names no port beyond `N_PORT` (R10, R72). -/
def Config.initFlagsOk (c : Config) : Bool := decide (c.portInitFlags.length ≤ c.nPort)

/-- A legal configuration (R10, R135; spec/93_implementation_defined.md U29). -/
def Config.wf (c : Config) : Bool :=
  c.nPortOk && c.nTypesOk && c.portTagOk && c.maxPayloadOk && c.initFlagsOk

/-- The canonical terms under a configuration. The generic rows contain the port rows (spec/opcode_table.json): bytes
addressed to `PORT_TAG` are read as the port row (log entry 12). -/
def Instr.wf (c : Config) : Instr → Bool
  | .genericRead t _ => t != c.portTag
  | .genericWrite t => t != c.portTag
  | .unknownFunction b => b != 0xF2 && b != 0xF4
  | .pbitmap => true
  | .preadStatus k => k != 0
  | .pset _ _ => true
  | .pflags _ _ _ => true
  | .portWriteBadLength _ n => n != 1 && n != 2

end Sys2Proof
end

