-- ==== Sys2Proof/Machine/State.lean ====
section
/-! DEFINITION. The state of the transaction core (spec/10_state.md), the reasons a step can stop, and the machine right
after power-on reset (spec/70_reset_and_hazards.md R281). Plain data throughout. -/

namespace Sys2Proof.Machine

/-- `ENG`: the engine's position; each position but `idle` names the next bus operation (R32). -/
inductive Eng where
  | idle | rdTag | rdChan | rdLenTx | rdDataTx | rdCrcTx | rdEchoRx
  | wrTag | pwChan | pwLen | pwData | pwCrcTx | pwEchoRx | xw
  deriving DecidableEq, Repr

/-- The abort causes (spec/60_exceptions.md R251), in the order of their codes 1 to 8. -/
inductive AbortCause where
  | busFault | unknownFunction | unknownType | noCapability | badChannel | badLength | crcMismatch | lengthOverflow
  deriving DecidableEq, Repr

/-- A diagnostic event `Diag(kind, v)` (R262). -/
inductive Diag where
  | unknownFunction (b : Byte)
  | unknownType (t : Byte)
  | pinChange (i : Nat)
  deriving DecidableEq, Repr

/-- What an EXTERNAL body answers for one channel: `read_length` and `read` give these bytes, so that they agree on
the length (spec/41_dispatch_registry.md R136 point 1), or abort. DESIGN CHOICE (log entry 19): the body names any of
the eight causes, and its abort reports no diagnostic. DESIGN CHOICE (log entry 20): one abort stands for both
capabilities, so that `read` never aborts where `read_length` answered. DESIGN CHOICE (log entry 21): the payload has any
length, above 255 too. -/
inductive ExtRead where
  | payload (bytes : List Byte)
  | abort (cause : AbortCause)
  deriving DecidableEq, Repr

/-- What an EXTERNAL write function does next (R136 point 3, R142): receive one more byte, begin the CRC exchange, or
abort. DESIGN CHOICE (log entry 19): the body names any of the eight causes, and its abort reports no diagnostic. -/
inductive ExtOp where
  | receive
  | exchange
  | abort (cause : AbortCause)
  deriving DecidableEq, Repr

/-- What an EXTERNAL device type's body shows the core (R61, R136): the function of R142 "from received bytes to an
outcome" and its siblings as finite tables. DESIGN CHOICE (log entry 9): a channel or a byte sequence the tables do
not list is a capability the body lacks, the dummy of R130. -/
structure ExtBody where
  /-- `read_length` and `read`, by channel. -/
  reads : List (Byte × ExtRead)
  /-- `write`: the next operation, by the bytes received after the tag so far. -/
  writes : List (List Byte × ExtOp)
  /-- `alert_check`. -/
  alert : Bool
  /-- `alert_fill`. -/
  fill : List Byte
  deriving DecidableEq, Repr

/-- A body that implements nothing. -/
def ExtBody.none : ExtBody := { reads := [], writes := [], alert := false, fill := [] }

/-- An event of the environment: an answer to a bus operation (R60), one mainloop iteration with its pin sample
(R230, spec/00_scope.md R17), or an EXTERNAL body that has moved on by itself (R61). -/
inductive EnvEvent where
  | rx (b : Byte)
  | txDone
  | abort
  | iter (sample : Bool)
  | ext (t : Byte) (body : ExtBody)
  deriving DecidableEq, Repr

/-- What crosses the block's boundary outward: a byte transmitted, a diagnostic, and, as the model's own record (log
entry 10), an abort with its cause and the calls of `read_done` and of a write's commit. -/
inductive OutEvent where
  | tx (b : Byte)
  | diag (d : Diag)
  | aborted (cause : AbortCause)
  | readDone (t c : Byte)
  | writeDone (t : Byte)
  deriving DecidableEq, Repr

/-- Where an external write stands inside `ENG = XW` (R142, R136 point 3): receiving, with the bytes received after
the tag; sending the trailer; receiving the echo. The model's own (log entry 9). -/
inductive XwPhase where
  | receive (got : List Byte)
  | trailer
  | echo
  deriving DecidableEq, Repr

/-- The transaction registers (R34 to R39), named for a fault. -/
inductive TxnReg where
  | crc | tag | chan | len | idx | echo | xw
  deriving DecidableEq, Repr

/-- Why a step stops. No rule of the spec reaches one of the first three (R40, R38, R211). -/
inductive Fault where
  /-- A rule read a transaction register the current transaction had not written. Raised by `need`. Safe: R40 and
  spec/93_implementation_defined.md U26 call it a fault. -/
  | noValue (r : TxnReg)
  /-- A `BUF` element outside the buffer, or at or beyond `LEN`, or not written. Raised by `readBuf`, `writeBuf` and
  `fillBuf`. Safe: R38 and U27 call it a fault. -/
  | bufIndex (i : Nat)
  /-- A port index at or beyond `N_PORT`. Raised by `readPort`. Safe: R211 and U28 call it a fault. -/
  | portIndex (i : Nat)
  /-- The environment's script answers an operation the block is not performing, or schedules an iteration inside a
  transaction. Raised by `envStep`. Safe: R60 and R230 admit no such event (log entry 6). -/
  | answerMismatch
  deriving DecidableEq, Repr

/-- Why the model has no meaning for what it is given. -/
inductive Refusal where
  /-- An instruction without a meaning. Raised by `exec` alone, for no instruction now. Safe. -/
  | notModelled (mnemonic : String)
  /-- An ill-formed configuration. Raised by `boot`. Safe: R135 and U29 refuse it when it is built. -/
  | badConfig
  deriving DecidableEq, Repr

/-- The outcome of a step, a meaning or an engine step. -/
abbrev Result (State : Type) := Host.Outcome State Fault Refusal

/-- The port descriptor space PORTS (spec/20_memory.md R70, R72): flags bytes by port index, in canonical form, that
is, indices strictly rising and no entry equal to what an unlisted index reads as. -/
abbrev Memory := List Host.Cell

/-- What an unlisted port index reads as: 0x00, the default `PORT_INIT_FLAGS[i]` (R281; log entry 8). -/
def Memory.unlisted : Byte := 0x00

/-- The canonical form. -/
def Memory.wf : Memory → Bool
  | [] => true
  | (a, v) :: m => (v != Memory.unlisted) && m.all (fun cell => decide (a < cell.1)) && Memory.wf m

/-- The whole machine. The transaction registers are absent outside a transaction (R40; log entry 7). -/
structure State where
  /-- The parameters of spec/00_scope.md R10; no step writes them (R11). -/
  cfg : Config
  /-- `ENG` (R32). -/
  eng : Eng
  /-- `CRC` (R34). -/
  crc : Option Word
  /-- `TAG` (R35). -/
  tag : Option Byte
  /-- `CHAN` (R36). -/
  chan : Option Byte
  /-- `LEN` (R37). -/
  len : Option Byte
  /-- `BUF` (R38): the elements this transaction has written, from index 0 up. -/
  buf : List Byte
  /-- `IDX` (R39). -/
  idx : Option Byte
  /-- `ECHO[7:0]` (R39). -/
  echoLo : Option Byte
  /-- `ECHO[15:8]` (R39). -/
  echoHi : Option Byte
  /-- Where an external write stands (R142); the model's own. -/
  xw : Option XwPhase
  /-- `PORT[i].FLAGS` (R41). -/
  ports : Memory
  /-- `POLL_CUR` (R44). -/
  pollCur : Byte
  /-- `RUN_MAX` (R45). -/
  runMax : Byte
  /-- `CACHE` (R46). -/
  cache : Byte
  /-- `ALERT_PRESENT` (R47). -/
  alertPresent : Bool
  /-- The EXTERNAL bodies by tag (R61); the model's own. -/
  ext : List (Byte × ExtBody)
  /-- The environment's events not yet consumed, next first; the model's own (log entry 3). -/
  env : List EnvEvent
  /-- What has crossed the boundary outward, oldest first; the model's own (log entry 10). -/
  out : List OutEvent
  deriving DecidableEq, Repr

/-- The canonical space that holds `flags` from index `i` up and 0x00 elsewhere. -/
def Memory.ofFlags (i : Nat) : List Byte → Memory
  | [] => []
  | f :: flags =>
    if f = Memory.unlisted then Memory.ofFlags (i + 1) flags else (i, f) :: Memory.ofFlags (i + 1) flags

/-- Power-on reset under a configuration (R281): `ENG = IDLE`, no transaction register holds a value, the ports hold
their initial flags, the poller registers and `ALERT_PRESENT` are 0. -/
def State.resetWith (cfg : Config) : State where
  cfg := cfg
  eng := .idle
  crc := none
  tag := none
  chan := none
  len := none
  buf := []
  idx := none
  echoLo := none
  echoHi := none
  xw := none
  ports := Memory.ofFlags 0 cfg.portInitFlags
  pollCur := 0
  runMax := 0
  cache := 0
  alertPresent := false
  ext := []
  env := []
  out := []

/-- The machine right after power-on reset in the default configuration (R10, R281). -/
def State.reset : State := State.resetWith Config.default

end Sys2Proof.Machine
end

