-- ==== Sys2Proof/Machine/Crc.lean ====
section
/-! DEFINITION. The CRC accumulator (spec/40_crc.md R120, R121, R126). -/

namespace Sys2Proof.Machine

/-- One bit of the fold: R121's loop body for a least-significant-bit-first polynomial, its mirror image otherwise. -/
def crcBit (a : CrcAlgo) (c : Word) : Word :=
  if a.lsbFirst then
    if c.getLsbD 0 then (c >>> 1) ^^^ a.poly else c >>> 1
  else
    if c.getLsbD 15 then (c <<< 1) ^^^ a.poly else c <<< 1

/-- Where the byte enters the register. -/
def crcEnter (a : CrcAlgo) (crc : Word) (b : Byte) : Word :=
  if a.lsbFirst then crc ^^^ b.setWidth 16 else crc ^^^ (b.setWidth 16 <<< 8)

/-- `accumulate(crc, b)` (R121). -/
def accumulate (a : CrcAlgo) (crc : Word) (b : Byte) : Word :=
  (crcBit a)^[8] (crcEnter a crc b)

/-- `crc(b1..bn)`: the fold of a sequence from a start value (R126). -/
def crcOf (a : CrcAlgo) (crc : Word) (bytes : List Byte) : Word := bytes.foldl (accumulate a) crc

end Sys2Proof.Machine
end

