-- ==== Sys2Proof/Machine/Flags.lean ====
section
/-! DEFINITION. The port flags byte (spec/30_encoding.md R100 to R103) and every computation on one flags byte that the
port rules make (spec/44_port.md). Pure functions of bytes. -/

namespace Sys2Proof.Machine

/-- The four output modes (R101, R102, R190). -/
inductive Mode where
  | z | pullup | off | on
  deriving DecidableEq, Repr

/-- What a pin output does (R192). -/
inductive PinDrive where
  | drivenLow | drivenHigh | highImpedance | pulledUp
  deriving DecidableEq, Repr

/-- `M0`, mode bit 0 (R100). -/
def flagM0 (f : Byte) : Bool := f.getLsbD 0
/-- `M1`, mode bit 1 (R100). -/
def flagM1 (f : Byte) : Bool := f.getLsbD 1
/-- `ALT`: layout A when clear, layout B when set (R100). -/
def flagAlt (f : Byte) : Bool := f.getLsbD 2
/-- `CURRENT` (R100). -/
def flagCurrent (f : Byte) : Bool := f.getLsbD 3
/-- `CHANGED` (R100). -/
def flagChanged (f : Byte) : Bool := f.getLsbD 4
/-- `POLL` (R100). -/
def flagPoll (f : Byte) : Bool := f.getLsbD 5
/-- `ALERT` (R100). -/
def flagAlert (f : Byte) : Bool := f.getLsbD 6
/-- `RSVD` (R100, R113). -/
def flagRsvd (f : Byte) : Bool := f.getLsbD 7

/-- `f` with bit `i` set to `v` and every other bit as it was. -/
def setBit (i : Nat) (v : Bool) (f : Byte) : Byte :=
  if v then f ||| (1#8 <<< i) else f &&& ~~~(1#8 <<< i)

/-- `LVLBIT(f)`, the position of the level bit (R103). -/
def lvlBit (f : Byte) : Nat := if flagAlt f then 1 else 0
/-- `DRVBIT(f)`, the position of the drive bit (R103). -/
def drvBit (f : Byte) : Nat := if flagAlt f then 0 else 1
/-- `LVL(f)`, the logical value the mode encodes (R103, R193). -/
def lvl (f : Byte) : Bool := f.getLsbD (lvlBit f)
/-- `DRV(f)`: driven (OFF, ON) or released (Z, PULLUP) (R103). -/
def drv (f : Byte) : Bool := f.getLsbD (drvBit f)

/-- `MODE(f)` (R103). -/
def mode (f : Byte) : Mode :=
  match drv f, lvl f with
  | false, false => .z
  | false, true => .pullup
  | true, false => .off
  | true, true => .on

/-- The bits `(M1, M0)` that encode a mode in a layout: the inverse of the table of R101 (`alt` clear) or R102 (`alt`
set) (R191). -/
def modeBits (alt : Bool) (m : Mode) : Bool × Bool :=
  match alt, m with
  | false, .z => (false, false)
  | false, .pullup => (false, true)
  | false, .off => (true, false)
  | false, .on => (true, true)
  | true, .z => (false, false)
  | true, .off => (false, true)
  | true, .pullup => (true, false)
  | true, .on => (true, true)

/-- The drive of a pin in a mode (R192). -/
def pinDrive : Mode → PinDrive
  | .off => .drivenLow
  | .on => .drivenHigh
  | .z => .highImpedance
  | .pullup => .pulledUp

/-- `pending`: changed or poll-requested (R199). -/
def pending (f : Byte) : Bool := flagChanged f || flagPoll f

/-- A pending report on an armed port: one term of `alert_check` and one bit of `alert_fill` (R208, R209). -/
def alerting (f : Byte) : Bool := pending f && flagAlert f

/-- The flags after `port_set` when the mode does not encode `v` (R194): the level bit and `CURRENT` become `v`. -/
def commandedFlags (v : Bool) (f : Byte) : Byte := setBit 3 v (setBit (lvlBit f) v f)

/-- The flags after `port_check` finds the sample `s` other than `CURRENT` (R196). -/
def changedFlags (s : Bool) (f : Byte) : Byte := setBit 4 true (setBit 3 s f)

/-- The flags after `read_done` (R203): `CHANGED` and `POLL` clear. -/
def deliveredFlags (f : Byte) : Byte := setBit 5 false (setBit 4 false f)

/-- The flags after a masked write (R205). -/
def maskedFlags (v m f : Byte) : Byte := (f &&& ~~~m) ||| (v &&& m)

end Sys2Proof.Machine
end

