-- ==== Sys2Proof/Machine/Operands.lean ====
section
/-! DEFINITION. The operand forms (spec/30_encoding.md R104, R108, R112, R115; spec/40_crc.md R124, R125): whole
unsigned bytes, the port channel, the value byte of a one-byte write, the trailer and the echo. -/

namespace Sys2Proof.Machine

/-- A channel that names one port: `1 <= k <= N_PORT` (R73, R104). -/
def namesPort (cfg : Config) (c : Byte) : Bool := decide (1 ≤ c.toNat) && decide (c.toNat ≤ cfg.nPort)

/-- The port index a channel `k >= 1` names: `k - 1` (R73). -/
def portOf (c : Byte) : Nat := c.toNat - 1

/-- A legal length of a port write (R112, R175). -/
def portWriteLenOk (n : Byte) : Bool := n == 1 || n == 2

/-- The logical value of a one-byte write's value byte: 0 is 0, any other byte is 1 (R97, R179). -/
def logicalValue (b : Byte) : Bool := b != 0

/-- `T = ~CRC` (R124). -/
def trailer (crc : Word) : Word := ~~~crc

/-- The low byte of a word. -/
def lowByte (w : Word) : Byte := w.setWidth 8

/-- The high byte of a word. -/
def highByte (w : Word) : Byte := (w >>> 8).setWidth 8

/-- The trailer byte at position `idx`: the low byte first (R76, R124, R157). -/
def trailerByte (crc : Word) (idx : Byte) : Byte :=
  if idx = 0 then lowByte (trailer crc) else highByte (trailer crc)

/-- `E = hi << 8 | lo` (R95, R115). -/
def echoWord (hi lo : Byte) : Word := (hi.setWidth 16 <<< 8) ||| lo.setWidth 16

end Sys2Proof.Machine
end

