-- ==== Sys2Proof/Machine/Ops.lean ====
section
/-! DEFINITION. The named operations over the state: the port space, the transaction registers, the payload buffer, the
outward record, the CRC fold, and the abort (spec/60_exceptions.md R254), which is the core's one exception. -/

namespace Sys2Proof.Machine

/-! ### The port descriptor space (spec/20_memory.md R72, R81) -/

/-- The byte at an index; an unlisted index reads as 0x00. -/
def Memory.read : Memory → Nat → Byte
  | [], _ => Memory.unlisted
  | (x, v) :: m, a => if x = a then v else Memory.read m a

/-- Write a byte, keeping the canonical form: writing 0x00 removes the entry. -/
def Memory.write : Memory → Nat → Byte → Memory
  | [], a, v => if v = Memory.unlisted then [] else [(a, v)]
  | (x, w) :: m, a, v =>
    if a < x then (if v = Memory.unlisted then (x, w) :: m else (a, v) :: (x, w) :: m)
    else if a = x then (if v = Memory.unlisted then m else (a, v) :: m)
    else (x, w) :: Memory.write m a v

/-- `PORT[i].FLAGS`, where the index is already validated. -/
def State.flags (s : State) (i : Nat) : Byte := s.ports.read i

/-- `PORT[i].FLAGS <- f`, where the index is already validated. -/
def State.setFlags (s : State) (i : Nat) (f : Byte) : State := { s with ports := s.ports.write i f }

/-- Read `PORT[i].FLAGS`; an index at or beyond `N_PORT` is a fault (R211, U28). -/
def readPort (s : State) (i : Nat) : Except Fault Byte :=
  if i < s.cfg.nPort then .ok (s.flags i) else .error (.portIndex i)

/-! ### Results -/

/-- What a capability of a device type answers (spec/41_dispatch_registry.md R130, R136): a value, an abort with its
cause, or a model fault. -/
inductive Cap (α : Type) where
  | ok (a : α)
  | abort (c : AbortCause)
  | fault (f : Fault)
  deriving DecidableEq, Repr

/-- Go on with the value, or stop with the fault. -/
def orFault {α : Type} (r : Except Fault α) (k : α → Result State) : Result State :=
  match r with
  | .ok a => k a
  | .error f => .fault f

/-- Read a transaction register; one that holds no value is a model fault (R40). -/
def need {α : Type} (r : TxnReg) (v : Option α) (k : α → Result State) : Result State :=
  match v with
  | some a => k a
  | none => .fault (.noValue r)

/-! ### The outward record -/

/-- Record an outward event. -/
def State.emit (s : State) (e : OutEvent) : State := { s with out := s.out ++ [e] }

/-! ### Transaction end and abort -/

/-- The code of an abort cause (R251). It stands in no register and never goes on the wire. -/
def abortCode : AbortCause → Nat
  | .busFault => 1
  | .unknownFunction => 2
  | .unknownType => 3
  | .noCapability => 4
  | .badChannel => 5
  | .badLength => 6
  | .crcMismatch => 7
  | .lengthOverflow => 8

/-- Discard the transaction state and return to `IDLE` (R40, R181). -/
def State.endTransaction (s : State) : State :=
  { s with
    eng := .idle, crc := none, tag := none, chan := none, len := none, buf := [], idx := none, echoLo := none,
    echoHi := none, xw := none }

/-- `raise Abort(cause)` (spec/00_scope.md R15, spec/60_exceptions.md R254): `ENG` is `IDLE`, the transaction state is
discarded, nothing persistent is written and nothing transmitted. There is no return from it (R255, R257). The cause
goes to the model's record only (R251). -/
def raise (cause : AbortCause) (s : State) : State := s.endTransaction.emit (.aborted cause)

/-- The environment's `ABORT` (R252, R258): at `IDLE` no effect, otherwise a bus fault in place of the step. -/
def busAbort (s : State) : State := if s.eng = .idle then s else raise .busFault s

/-- Go on with a capability's value, take its abort, or stop with its fault. -/
def orAbort {α : Type} (r : Cap α) (s : State) (k : α → Result State) : Result State :=
  match r with
  | .ok a => k a
  | .abort c => .next (raise c s)
  | .fault f => .fault f

/-! ### The CRC fold and the payload buffer -/

/-- `CRC <- accumulate(CRC, b)` (spec/40_crc.md R121, R122). -/
def foldByte (b : Byte) (s : State) (k : State → Result State) : Result State :=
  need .crc s.crc fun c => k { s with crc := some (accumulate s.cfg.crcAlgo c b) }

/-- `BUF[i]`: only an element below `LEN` that the transaction has written is read (R38, U27). -/
def readBuf (s : State) (i : Nat) (k : Byte → Result State) : Result State :=
  need .len s.len fun n =>
  if i < n.toNat then
    match s.buf[i]? with
    | some b => k b
    | none => .fault (.bufIndex i)
  else .fault (.bufIndex i)

/-- `BUF[i] <- b` for the next element of the buffer (spec/43_generic_write.md R176). -/
def writeBuf (i : Nat) (b : Byte) (s : State) (k : State → Result State) : Result State :=
  if i = s.buf.length ∧ i < s.cfg.maxPayload then k { s with buf := s.buf ++ [b] } else .fault (.bufIndex i)

/-- `BUF[0..] <- bytes` (spec/42_generic_read.md R154, R155). -/
def fillBuf (bytes : List Byte) (s : State) (k : State → Result State) : Result State :=
  if bytes.length ≤ s.cfg.maxPayload then k { s with buf := bytes } else .fault (.bufIndex s.cfg.maxPayload)

/-! ### The CRC exchange, the same in every transaction (spec/40_crc.md R124, R125) -/

/-- Transmit the trailer byte at `IDX`; after the second one go on to `after` (R157, R177). -/
def trailerStep (after : State → State) (s : State) : Result State :=
  need .crc s.crc fun c => need .idx s.idx fun i =>
  let s := s.emit (.tx (trailerByte c i))
  if i + 1 = 2 then .next (after { s with idx := some 0 }) else .next { s with idx := some (i + 1) }

/-- Receive the echo byte at `IDX`; after the second one compare `ECHO` with `~CRC` once and commit or abort (R125,
R158, R159, R178). -/
def echoStep (commit : State → Result State) (e : Byte) (s : State) : Result State :=
  need .idx s.idx fun i =>
  if i = 0 then .next { s with echoLo := some e, idx := some 1 }
  else
    let s := { s with echoHi := some e }
    need .echo s.echoLo fun lo => need .echo s.echoHi fun hi => need .crc s.crc fun c =>
    if echoWord hi lo ≠ trailer c then .next (raise .crcMismatch s) else commit s

end Sys2Proof.Machine
end

