-- ==== Sys2Proof/Machine/Port.lean ====
section
/-! DEFINITION. The port device type (spec/44_port.md): pin drive, `port_set`, `port_check`, the read, write and alert
capabilities. -/

namespace Sys2Proof.Machine

/-- Pin output i: a function of `PORT[i].FLAGS` alone (spec/10_state.md R56, R192). -/
def pinOutput (s : State) (i : Nat) : Except Fault PinDrive :=
  match readPort s i with
  | .ok f => .ok (pinDrive (mode f))
  | .error e => .error e

/-- `port_set(i, v)` (R194): nothing if the mode already encodes `v`, else the level bit and `CURRENT` take `v`. -/
def portSet (i : Nat) (v : Bool) (s : State) : Except Fault State :=
  match readPort s i with
  | .ok f => if lvl f = v then .ok s else .ok (s.setFlags i (commandedFlags v f))
  | .error e => .error e

/-- `port_check(i)` with the sample of the pin (R196). -/
def portCheck (i : Nat) (sample : Bool) (s : State) : Except Fault State :=
  match readPort s i with
  | .ok f =>
    if sample = flagCurrent f then .ok s
    else .ok ((s.setFlags i (changedFlags sample f)).emit (.diag (.pinChange i)))
  | .error e => .error e

/-- `port_masked_write(i, v, m)` (R205). -/
def portMaskedWrite (i : Nat) (v m : Byte) (s : State) : Except Fault State :=
  match readPort s i with
  | .ok f => .ok (s.setFlags i (maskedFlags v m f))
  | .error e => .error e

/-- Port `read_length(c)` (R200). -/
def portReadLength (s : State) (c : Byte) : Cap Nat :=
  if c = 0 then .ok (ceilDiv8 s.cfg.nPort)
  else if namesPort s.cfg c then .ok 1
  else .abort .badChannel

/-- One bit at a position of a byte. -/
def bitAt (v : Bool) (k : Nat) : Byte := if v then 1#8 <<< k else 0#8

/-- Byte `j` of the packing of `p 0 .. p (n-1)`, least significant bit first, residue bits 0 (spec/20_memory.md R77,
spec/30_encoding.md R105). -/
def packByte (p : Nat → Bool) (n j : Nat) : Byte :=
  (List.range 8).foldl (fun acc b => acc ||| bitAt (decide (8 * j + b < n) && p (8 * j + b)) b) 0#8

/-- The packing of `p 0 .. p (n-1)` into `ceil(n/8)` bytes. -/
def pack (p : Nat → Bool) (n : Nat) : List Byte := (List.range (ceilDiv8 n)).map (packByte p n)

/-- The level bitmap, port `read(0)` (R201). -/
def levelBitmap (s : State) : List Byte := pack (fun i => flagCurrent (s.flags i)) s.cfg.nPort

/-- Port `read(c)` (R201, R202). -/
def portRead (s : State) (c : Byte) : Cap (List Byte) :=
  if c = 0 then .ok (levelBitmap s)
  else
    match readPort s (portOf c) with
    | .ok f => .ok [f]
    | .error e => .fault e

/-- Port `read_done(c)` (R203). -/
def portReadDone (c : Byte) (s : State) : Except Fault State :=
  if c = 0 then .ok s
  else
    match readPort s (portOf c) with
    | .ok f => .ok (s.setFlags (portOf c) (deliveredFlags f))
    | .error e => .error e

/-- Port `alert_check()` (R208): every port is scanned, whatever `CACHE` holds (R237). -/
def portAlertCheck (s : State) : Bool := (List.range s.cfg.nPort).any fun i => alerting (s.flags i)

/-- Port `alert_fill()` (R209). -/
def portAlertFill (s : State) : List Byte := pack (fun i => alerting (s.flags i)) s.cfg.nPort

end Sys2Proof.Machine
end

