-- ==== Sys2Proof/Machine/Registry.lean ====
section
/-! DEFINITION. The device-type registry (spec/41_dispatch_registry.md R130 to R136): lookup by direct indexing and the
capabilities of an entry. -/

namespace Sys2Proof.Machine

/-- `lookup(t)`: the implementation at table position `t`, none at or beyond `N_TYPES` (R131, spec/20_memory.md R71). -/
def lookup (cfg : Config) (t : Byte) : Option TypeImpl := cfg.typeImpl[t.toNat]?

/-- What the EXTERNAL body of a tag shows the core now (R61). -/
def extBody (s : State) (t : Byte) : ExtBody := (s.ext.lookup t).getD ExtBody.none

/-- What an EXTERNAL body answers for a channel; a channel it does not list has no payload (log entry 9).
Its abort carries the cause it names (log entry 19). -/
def extRead (body : ExtBody) (c : Byte) : Cap (List Byte) :=
  match body.reads.lookup c with
  | some (.payload bytes) => .ok bytes
  | some (.abort a) => .abort a
  | none => .ok []

/-- What an EXTERNAL write does after `got`; a sequence it does not list aborts as a dummy (log entry 9). -/
def extOp (body : ExtBody) (got : List Byte) : ExtOp := (body.writes.lookup got).getD (.abort .noCapability)

/-- `REG[t].read_length(c)` (R130). For an EXTERNAL type it is the length of the payload that `read` gives: it aborts
exactly where `read` does (DESIGN CHOICE, log entry 20), and it may be no byte, above 255, which `checkLength` turns away
(DESIGN CHOICE, log entry 21). -/
def readLength (s : State) (t c : Byte) : Cap Nat :=
  match lookup s.cfg t with
  | none => .abort .unknownType
  | some .port => portReadLength s c
  | some .dummy => .ok 0
  | some .external =>
    match extRead (extBody s t) c with
    | .ok bytes => .ok bytes.length
    | .abort a => .abort a
    | .fault f => .fault f

/-- `REG[t].read(c)` (R130). An EXTERNAL type's never aborts where its `read_length` answered (log entry 20). -/
def readPayload (s : State) (t c : Byte) : Cap (List Byte) :=
  match lookup s.cfg t with
  | none => .abort .unknownType
  | some .port => portRead s c
  | some .dummy => .abort .noCapability
  | some .external => extRead (extBody s t) c

/-- `REG[t].read_done(c)` (R130): only the port's acts on the core's state. -/
def readDone (t c : Byte) (s : State) : Except Fault State :=
  match lookup s.cfg t with
  | some .port => portReadDone c s
  | _ => .ok s

/-- `REG[t].alert_check()` (R130). -/
def alertCheck (s : State) (t : Byte) : Bool :=
  match lookup s.cfg t with
  | some .port => portAlertCheck s
  | some .external => (extBody s t).alert
  | _ => false

/-- `REG[t].alert_fill()` (R130). No rule of the spec calls it in a transaction (R143). -/
def alertFill (s : State) (t : Byte) : List Byte :=
  match lookup s.cfg t with
  | some .port => portAlertFill s
  | some .external => (extBody s t).fill
  | _ => []

/-- The OR of `REG[t].alert_check()` over the whole registry (spec/45_mainloop.md R235). -/
def anyAlert (s : State) : Bool := (List.range s.cfg.nTypes).any fun t => alertCheck s (BitVec.ofNat 8 t)

/-- An EXTERNAL body has moved on by itself (R61): it replaces what the tag shows. -/
def setExtBody (t : Byte) (body : ExtBody) (s : State) : State :=
  { s with ext := (t, body) :: s.ext.filter fun e => e.1 != t }

end Sys2Proof.Machine
end

