-- ==== Sys2Proof/Machine/Mainloop.lean ====
section
/-! DEFINITION. One iteration of the mainloop driver (spec/45_mainloop.md R231 to R236). -/

namespace Sys2Proof.Machine

/-- Cycle start (R231). -/
def cycleStart (s : State) : State :=
  if s.pollCur = 0 then { s with cache := s.runMax, runMax := 0 } else s

/-- Running maximum (R233), after the check. -/
def noteMaximum (s : State) : State :=
  if pending (s.flags s.pollCur.toNat) then { s with runMax := s.pollCur + 1 } else s

/-- Cursor advance (R234). -/
def advanceCursor (s : State) : State :=
  { s with pollCur := BitVec.ofNat 8 ((s.pollCur.toNat + 1) % s.cfg.nPort) }

/-- Alert aggregation (R235). -/
def aggregateAlerts (s : State) : State := { s with alertPresent := s.cfg.condSearchEn && anyAlert s }

/-- One iteration, whole (R236), with `Sample(POLL_CUR)`. -/
def mainloopIteration (sample : Bool) (s : State) : Result State :=
  orFault (portCheck (cycleStart s).pollCur.toNat sample (cycleStart s)) fun s =>
  .next (aggregateAlerts (advanceCursor (noteMaximum s)))

end Sys2Proof.Machine
end

