-- ==== Sys2Proof/Machine/Read.lean ====
section
/-! DEFINITION. The generic read handler (spec/42_generic_read.md R151 to R160), one definition per engine position. -/

namespace Sys2Proof.Machine

/-- Step at `RD_TAG` (R151). -/
def rdTagStep (t : Byte) (s : State) : Result State :=
  foldByte t s fun s =>
  let s := { s with tag := some t }
  match lookup s.cfg t with
  | none => .next (raise .unknownType (s.emit (.diag (.unknownType t))))
  | some _ => .next { s with eng := .rdChan }

/-- `check_length(L)` (R153): the cause of the abort, if there is one. -/
def checkLength (cfg : Config) (n : Nat) : Option AbortCause :=
  if n = 0 then some .noCapability
  else if cfg.maxPayload < n then some .lengthOverflow
  else none

/-- Step at `RD_CHAN` (R152, R153). -/
def rdChanStep (c : Byte) (s : State) : Result State :=
  foldByte c s fun s => need .tag s.tag fun t =>
  let s := { s with chan := some c }
  orAbort (readLength s t c) s fun n =>
  match checkLength s.cfg n with
  | some cause => .next (raise cause s)
  | none => .next { s with len := some (BitVec.ofNat 8 n), eng := .rdLenTx }

/-- Step at `RD_LEN_TX` (R154, R155): the first of the `3 + L` bytes the slave transmits (log entry 18). -/
def rdLenStep (s : State) : Result State :=
  need .len s.len fun n =>
  foldByte n (s.emit (.tx n)) fun s => need .tag s.tag fun t => need .chan s.chan fun c =>
  orAbort (readPayload s t c) s fun bytes =>
  fillBuf bytes s fun s => .next { s with idx := some 0, eng := .rdDataTx }

/-- Step at `RD_DATA_TX` (R156): `L` of the `3 + L` bytes (log entry 18). -/
def rdDataStep (s : State) : Result State :=
  need .idx s.idx fun i => readBuf s i.toNat fun b => need .len s.len fun n =>
  foldByte b (s.emit (.tx b)) fun s =>
  if i + 1 = n then .next { s with idx := some 0, eng := .rdCrcTx } else .next { s with idx := some (i + 1) }

/-- Step at `RD_CRC_TX` (R157): the last two of the `3 + L` bytes (log entry 18). -/
def rdCrcStep (s : State) : Result State := trailerStep (fun s => { s with eng := .rdEchoRx }) s

/-- The completion of a read after a correct echo (R159, R160): `read_done` once, then `IDLE`. -/
def readCommit (s : State) : Result State :=
  need .tag s.tag fun t => need .chan s.chan fun c =>
  orFault (readDone t c s) fun s => .next (s.emit (.readDone t c)).endTransaction

/-- Step at `RD_ECHO_RX` (R158, R159). -/
def rdEchoStep (e : Byte) (s : State) : Result State := echoStep readCommit e s

end Sys2Proof.Machine
end

