-- ==== Sys2Proof/Machine/Write.lean ====
section
/-! DEFINITION. The generic write handler and the port's write framing (spec/43_generic_write.md R171 to R181), one
definition per engine position, and the external write (spec/41_dispatch_registry.md R142). -/

namespace Sys2Proof.Machine

/-- The external write's next operation after the bytes `got` (R142, R136 point 3; log entry 9). A body's abort
carries the cause the body names (log entry 19). -/
def xwNext (t : Byte) (got : List Byte) (s : State) : Result State :=
  match extOp (extBody s t) got with
  | .receive => .next { s with eng := .xw, xw := some (.receive got) }
  | .exchange => .next { s with eng := .xw, xw := some .trailer, idx := some 0 }
  | .abort cause => .next (raise cause s)

/-- Step at `WR_TAG` (R171). -/
def wrTagStep (t : Byte) (s : State) : Result State :=
  foldByte t s fun s =>
  let s := { s with tag := some t }
  match lookup s.cfg t with
  | none => .next (raise .unknownType (s.emit (.diag (.unknownType t))))
  | some .dummy => .next (raise .noCapability s)
  | some .port => .next { s with eng := .pwChan }
  | some .external => xwNext t [] s

/-- Step at `PW_CHAN` (R174). -/
def pwChanStep (c : Byte) (s : State) : Result State :=
  foldByte c s fun s =>
  let s := { s with chan := some c }
  if namesPort s.cfg c then .next { s with eng := .pwLen } else .next (raise .badChannel s)

/-- Step at `PW_LEN` (R175). -/
def pwLenStep (n : Byte) (s : State) : Result State :=
  foldByte n s fun s =>
  let s := { s with len := some n }
  if portWriteLenOk n then .next { s with idx := some 0, eng := .pwData } else .next (raise .badLength s)

/-- Step at `PW_DATA` (R176). -/
def pwDataStep (d : Byte) (s : State) : Result State :=
  foldByte d s fun s => need .idx s.idx fun i => need .len s.len fun n =>
  writeBuf i.toNat d s fun s =>
  if i + 1 = n then .next { s with idx := some 0, eng := .pwCrcTx } else .next { s with idx := some (i + 1) }

/-- Step at `PW_CRC_TX` (R177). -/
def pwCrcStep (s : State) : Result State := trailerStep (fun s => { s with eng := .pwEchoRx }) s

/-- The end of a committed write (R181). -/
def writeDone (t : Byte) (s : State) : Result State := .next (s.emit (.writeDone t)).endTransaction

/-- `port_commit()` (R179, R180): `port_set` for one byte, the masked write for two. -/
def portCommit (s : State) : Result State :=
  need .tag s.tag fun t => need .chan s.chan fun c => need .len s.len fun n => readBuf s 0 fun v =>
  if n = 1 then orFault (portSet (portOf c) (logicalValue v) s) (writeDone t)
  else readBuf s 1 fun m => orFault (portMaskedWrite (portOf c) v m s) (writeDone t)

/-- Step at `PW_ECHO_RX` (R178). -/
def pwEchoStep (e : Byte) (s : State) : Result State := echoStep portCommit e s

/-- The commit of an external write: its effect lies outside the core (R61). -/
def xwCommit (s : State) : Result State := need .tag s.tag fun t => writeDone t s

/-- A byte received at `XW`: a payload byte is folded (R136 point 3), an echo byte is not (spec/40_crc.md R123). -/
def xwReceiveStep (b : Byte) (s : State) : Result State :=
  need .xw s.xw fun phase =>
  match phase with
  | .receive got => foldByte b s fun s => need .tag s.tag fun t => xwNext t (got ++ [b]) s
  | .trailer => .fault .answerMismatch
  | .echo => echoStep xwCommit b s

/-- A byte transmitted at `XW`: the trailer (R136 point 3, spec/40_crc.md R124). -/
def xwTransmitStep (s : State) : Result State :=
  need .xw s.xw fun phase =>
  match phase with
  | .trailer => trailerStep (fun s => { s with xw := some .echo }) s
  | _ => .fault .answerMismatch

end Sys2Proof.Machine
end

