-- ==== Sys2Proof/Machine/Engine.lean ====
section
/-! DEFINITION. The atomic steps of the machine's agents (spec/10_state.md R30, R33, R60): the function-code dispatcher
(spec/41_dispatch_registry.md R137 to R140), the engine step at each position, and the run of one transaction. -/

namespace Sys2Proof.Machine

/-- Function-code reception and dispatch at `IDLE` (R137 to R140). -/
def dispatchStep (b : Byte) (s : State) : Result State :=
  foldByte b { s with crc := some 0 } fun s =>
  if b = 0xF2 then .next { s with eng := .rdTag }
  else if b = 0xF4 then .next { s with eng := .wrTag }
  else .next (raise .unknownFunction (s.emit (.diag (.unknownFunction b))))

/-- The engine step for `RX(b)` at the receive positions (R32, R60). -/
def receiveStep (b : Byte) (s : State) : Result State :=
  match s.eng with
  | .idle => dispatchStep b s
  | .rdTag => rdTagStep b s
  | .rdChan => rdChanStep b s
  | .rdEchoRx => rdEchoStep b s
  | .wrTag => wrTagStep b s
  | .pwChan => pwChanStep b s
  | .pwLen => pwLenStep b s
  | .pwData => pwDataStep b s
  | .pwEchoRx => pwEchoStep b s
  | .xw => xwReceiveStep b s
  | .rdLenTx => .fault .answerMismatch
  | .rdDataTx => .fault .answerMismatch
  | .rdCrcTx => .fault .answerMismatch
  | .pwCrcTx => .fault .answerMismatch

/-- The engine step for `TXDONE` at the transmit positions (R32, R60). -/
def transmitStep (s : State) : Result State :=
  match s.eng with
  | .rdLenTx => rdLenStep s
  | .rdDataTx => rdDataStep s
  | .rdCrcTx => rdCrcStep s
  | .pwCrcTx => pwCrcStep s
  | .xw => xwTransmitStep s
  | .idle => .fault .answerMismatch
  | .rdTag => .fault .answerMismatch
  | .rdChan => .fault .answerMismatch
  | .rdEchoRx => .fault .answerMismatch
  | .wrTag => .fault .answerMismatch
  | .pwChan => .fault .answerMismatch
  | .pwLen => .fault .answerMismatch
  | .pwData => .fault .answerMismatch
  | .pwEchoRx => .fault .answerMismatch

/-- An event of the block at rest: enabled exactly when `ENG = IDLE` (R230). -/
def atIdle (s : State) (r : Result State) : Result State := if s.eng = .idle then r else .fault .answerMismatch

/-- An EXTERNAL body moves on between transactions (R61); only an EXTERNAL tag has one (log entry 9). -/
def extStep (t : Byte) (body : ExtBody) (s : State) : Result State :=
  if lookup s.cfg t = some .external then .next (setExtBody t body s) else .fault .answerMismatch

/-- One atomic step of an agent (R30): the engine's on an answer of the bus, the mainloop's, or the environment's own. -/
def envStep (e : EnvEvent) (s : State) : Result State :=
  match e with
  | .rx b => receiveStep b s
  | .txDone => transmitStep s
  | .abort => .next (busAbort s)
  | .iter sample => atIdle s (mainloopIteration sample s)
  | .ext t body => atIdle s (extStep t body s)

/-- A result with what is left of the script in its state. -/
def withEnv (env : List EnvEvent) (r : Result State) : Result State :=
  match r with
  | .next s => .next { s with env := env }
  | .fault f => .fault f
  | .refused q => .refused q

/-- Run the engine on a script until the transaction has ended (R33, R141), or wait where the script ends (R55). -/
def serve : List EnvEvent → State → Result State
  | [], s => .next { s with env := [] }
  | e :: es, s =>
    match envStep e s with
    | .next t => if t.eng = .idle then .next { t with env := es } else serve es t
    | .fault f => .fault f
    | .refused q => .refused q

/-- One transaction: the initiator sends the request bytes, and the environment's script answers what follows (R141).
Where the transaction ends before the last request byte, the bytes left are the next the block receives (log entry 13). -/
def transact (request : List Byte) (s : State) : Result State := serve (request.map .rx ++ s.env) s

/-- The machine one event at a time (R30, R33); with no event it waits (R55). -/
def microStep (s : State) : Result State :=
  match s.env with
  | [] => .next s
  | e :: es => withEnv es (envStep e s)

end Sys2Proof.Machine
end

