-- ==== Sys2Proof/Machine/Transactions.lean ====
section
/-! DEFINITION. The meaning of each instruction: the transaction its request bytes start (spec/30_encoding.md R93 to
R98), run by the engine of spec/42_generic_read.md and spec/43_generic_write.md. -/

namespace Sys2Proof.Machine

/-- GENERIC_READ (R93, R162): receive `F2 t c`, answer with length, payload and trailer, check the echo, then run the
completion hook. A tag at or beyond `N_TYPES`, a dummy, a channel the type rejects and a length above `MAX_PAYLOAD`
abort before any byte is transmitted (R163). -/
def execGenericRead (t c : Byte) (s : State) : Result State := transact [0xF2, t, c] s

/-- GENERIC_WRITE (R96, R182): receive `F4 t`; the device type's write function receives the rest from the wire, makes
the CRC exchange and only then applies its effect (R172, R173). -/
def execGenericWrite (t : Byte) (s : State) : Result State := transact [0xF4, t] s

/-- UNKNOWN_FUNCTION (R140): a diagnostic and an abort. -/
def execUnknownFunction (b : Byte) (s : State) : Result State := transact [b] s

/-- PBITMAP (R105, R201): the level bitmap of all ports; the completion has no effect on them (R203). -/
def execPbitmap (s : State) : Result State := transact [0xF2, s.cfg.portTag, 0x00] s

/-- PREAD_STATUS (R106, R202): the flags byte of port `k - 1`; the completion clears its `CHANGED` and `POLL` (R203). -/
def execPreadStatus (k : Byte) (s : State) : Result State := transact [0xF2, s.cfg.portTag, k] s

/-- PSET (R97, R179): the commit is `port_set(k - 1, v != 0)` (R194). -/
def execPset (k v : Byte) (s : State) : Result State := transact [0xF4, s.cfg.portTag, k, 0x01, v] s

/-- PFLAGS (R98, R180): the commit is `port_masked_write(k - 1, v, m)` (R205). -/
def execPflags (k v m : Byte) (s : State) : Result State := transact [0xF4, s.cfg.portTag, k, 0x02, v, m] s

/-- PORT_WRITE_BAD_LENGTH (R112, R175): abort `BAD_LENGTH` at the length byte. -/
def execPortWriteBadLength (k n : Byte) (s : State) : Result State := transact [0xF4, s.cfg.portTag, k, n] s

end Sys2Proof.Machine
end

