-- ==== Sys2Proof/Machine/Dispatch.lean ====
section
/-! DEFINITION. The dispatch of an instruction to its meaning: one arm per constructor. -/

namespace Sys2Proof.Machine

def exec (i : Instr) (s : State) : Host.Outcome State Fault Refusal :=
  match i with
  | .genericRead t c => Sys2Proof.Machine.execGenericRead t c s
  | .genericWrite t => Sys2Proof.Machine.execGenericWrite t s
  | .unknownFunction b => Sys2Proof.Machine.execUnknownFunction b s
  | .pbitmap => Sys2Proof.Machine.execPbitmap s
  | .preadStatus k => Sys2Proof.Machine.execPreadStatus k s
  | .pset k v => Sys2Proof.Machine.execPset k v s
  | .pflags k v m => Sys2Proof.Machine.execPflags k v m s
  | .portWriteBadLength k n => Sys2Proof.Machine.execPortWriteBadLength k n s

end Sys2Proof.Machine
end

