-- ==== Sys2Proof/Decode.lean ====
section
/-! DEFINITION. Decoding a transaction's request bytes (spec/30_encoding.md R90 to R99, R118), the encoder written from
the same formats, and the reading of a word of spec/opcode_table.json. -/

namespace Sys2Proof

/-- Why bytes are no whole request yet. Every first byte has a meaning (R92, R114), so the only reason is that the
request is not complete. -/
inductive DecodeReject where
  /-- There is no byte. -/
  | noBytes
  /-- A generic read whose tag or channel byte has not come (R93). -/
  | truncatedRead
  /-- A generic write whose fixed bytes have not all come (R96 to R98). -/
  | truncatedWrite
  deriving DecidableEq, Repr

/-- The bytes after `F2` (R93): tag and channel. Addressed to `PORT_TAG` they are a port read (R104 to R106). -/
def decodeRead (cfg : Config) : List Byte → Except DecodeReject (Instr × List Byte)
  | t :: c :: rest =>
    if t = cfg.portTag then
      if c = 0 then .ok (.pbitmap, rest) else .ok (.preadStatus c, rest)
    else .ok (.genericRead t c, rest)
  | _ => .error .truncatedRead

/-- The bytes of a port write after `F4 PORT_TAG` (R97, R98, R112): channel, length, payload. -/
def decodePortWrite : List Byte → Except DecodeReject (Instr × List Byte)
  | k :: n :: rest =>
    if n = 1 then
      match rest with
      | v :: rest => .ok (.pset k v, rest)
      | [] => .error .truncatedWrite
    else if n = 2 then
      match rest with
      | v :: m :: rest => .ok (.pflags k v m, rest)
      | _ => .error .truncatedWrite
    else .ok (.portWriteBadLength k n, rest)
  | _ => .error .truncatedWrite

/-- The bytes after `F4` (R96): the tag, then for `PORT_TAG` the port's own framing. -/
def decodeWrite (cfg : Config) : List Byte → Except DecodeReject (Instr × List Byte)
  | t :: rest => if t = cfg.portTag then decodePortWrite rest else .ok (.genericWrite t, rest)
  | [] => .error .truncatedWrite

/-- The request at the head of `bytes`, with the bytes after it (R92, R99, R118). -/
def decode (cfg : Config) : List Byte → Except DecodeReject (Instr × List Byte)
  | [] => .error .noBytes
  | b :: rest =>
    if b = 0xF2 then decodeRead cfg rest
    else if b = 0xF4 then decodeWrite cfg rest
    else .ok (.unknownFunction b, rest)

/-- The request bytes of an instruction, in wire order (R93, R96 to R98, R109, R112). -/
def encode (cfg : Config) : Instr → List Byte
  | .genericRead t c => [0xF2, t, c]
  | .genericWrite t => [0xF4, t]
  | .unknownFunction b => [b]
  | .pbitmap => [0xF2, cfg.portTag, 0x00]
  | .preadStatus k => [0xF2, cfg.portTag, k]
  | .pset k v => [0xF4, cfg.portTag, k, 0x01, v]
  | .pflags k v m => [0xF4, cfg.portTag, k, 0x02, v, m]
  | .portWriteBadLength k n => [0xF4, cfg.portTag, k, n]

/-- The `n` bytes of `w`, the least significant first. -/
def bytesLsbFirst : Nat → Nat → List Byte
  | 0, _ => []
  | n + 1, w => BitVec.ofNat 8 w :: bytesLsbFirst n (w / 256)

/-- The bytes of a table word in wire order. The table's rows of three bytes and more number the function code as the
MOST significant byte (`fixed` of PBITMAP: bits 23..16 are 0xF2), its one-byte rows as bits 7..0. DESIGN CHOICE (log
entry 11): if the most significant of the `nbits` holds a function code, the word is read from that end; otherwise
bit 0 is the least significant bit of the first byte. -/
def tableBytes (nbits w : Nat) : List Byte :=
  let bytes := bytesLsbFirst ((nbits + 7) / 8) w
  match bytes.reverse with
  | [] => []
  | top :: _ => if top = 0xF2 ∨ top = 0xF4 then bytes.reverse else bytes

/-- The longest request: six bytes (PFLAGS, R98). -/
def longestRequest : Nat := 6

/-- A table word padded with zero bytes to the longest request. -/
def tableRequest (nbits w : Nat) : List Byte :=
  tableBytes nbits w ++ List.replicate (longestRequest - (tableBytes nbits w).length) 0x00

/-- The instruction the decoder reads from a table word, in the default configuration (log entry 11). -/
def decodeTableWord (nbits w : Nat) : Option Instr :=
  match decode Config.default (tableRequest nbits w) with
  | .ok (i, _) => some i
  | .error _ => none

end Sys2Proof
end

