-- ==== Sys2Proof/Machine/Fetch.lean ====
section
/-! DEFINITION. Where the block finds its next request: the bytes the initiator delivers next (spec/10_state.md R60;
log entry 3). -/

namespace Sys2Proof.Machine

/-- The bytes the script delivers before any other event. -/
def leadingBytes : List EnvEvent → List Byte
  | .rx b :: es => b :: leadingBytes es
  | _ => []

/-- The request at the head of the script and the script after it; none while the request is not whole. -/
def fetch (cfg : Config) (env : List EnvEvent) : Option (Instr × List EnvEvent) :=
  match decode cfg (leadingBytes env) with
  | .ok (i, left) => some (i, env.drop ((leadingBytes env).length - left.length))
  | .error _ => none

/-- The state with no transaction in progress and `request` the next bytes on the bus. -/
def placeRequest (request : List Byte) (s : State) : State :=
  { s.endTransaction with env := request.map .rx ++ s.env }

/-- The bytes of the request that stands at the head of a table word (log entry 11). -/
def tableInstrBytes (cfg : Config) (nbits w : Nat) : List Byte :=
  match decode cfg (tableRequest nbits w) with
  | .ok (i, _) => encode cfg i
  | .error _ => tableRequest nbits w

end Sys2Proof.Machine
end

