-- ==== Sys2Proof/Machine/Step.lean ====
section
/-! DEFINITION. One step of the machine. At `IDLE`, with a whole request next on the bus, the step is the instruction:
its whole transaction (log entry 4). Otherwise it is one event (`microStep`). -/

namespace Sys2Proof.Machine

def step (s : State) : Host.Outcome State Fault Refusal :=
  match s.eng, fetch s.cfg s.env with
  | .idle, some (i, rest) => exec i { s with env := rest }
  | _, _ => microStep s

/-- `s` with the instruction of a table word placed where `step` takes its next request: no transaction in progress
and the instruction's bytes next on the bus. -/
def State.withFetchWord (s : State) (nbits w : Nat) : State := placeRequest (tableInstrBytes s.cfg nbits w) s

end Sys2Proof.Machine
end

