-- ==== Sys2Proof/Machine/Boot.lean ====
section
/-! DEFINITION. Building a configuration and starting the machine in it (spec/70_reset_and_hazards.md R281, R284, R285). -/

namespace Sys2Proof.Machine

/-- Start in a configuration: an ill-formed one is refused when it is built (spec/41_dispatch_registry.md R135, U29). -/
def boot (cfg : Config) : Result State := if cfg.wf then .next (State.resetWith cfg) else .refused .badConfig

end Sys2Proof.Machine
end

