-- ==== Sys2Proof/Machine/Program.lean ====
section
/-! DEFINITION. The two transactions as sequential programs (spec/42_generic_read.md R162, spec/43_generic_write.md
R182), written from those rules and apart from the engine: local values in place of registers, and no `ENG`. A program
answers nothing while the environment has not answered a bus operation (spec/10_state.md R55). -/

namespace Sys2Proof.Machine

/-- `b <- RxByte()` (spec/00_scope.md R14): an abort of the environment ends the transaction in place of the rest. -/
def rxByte (s : State) (env : List EnvEvent) (k : Byte → List EnvEvent → Option (Result State)) : Option (Result State) :=
  match env with
  | [] => none
  | .rx b :: env => k b env
  | .abort :: env => some (.next { raise .busFault s with env := env })
  | _ => some (.fault .answerMismatch)

/-- `TxByte(v)` (R14). -/
def txByte (v : Byte) (s : State) (env : List EnvEvent) (k : State → List EnvEvent → Option (Result State)) :
    Option (Result State) :=
  match env with
  | [] => none
  | .txDone :: env => k (s.emit (.tx v)) env
  | .abort :: env => some (.next { raise .busFault s with env := env })
  | _ => some (.fault .answerMismatch)

/-- `TxByte` of each byte in order. -/
def txBytes : List Byte → State → List EnvEvent → (State → List EnvEvent → Option (Result State)) → Option (Result State)
  | [], s, env, k => k s env
  | v :: vs, s, env, k => txByte v s env fun s env => txBytes vs s env k

/-- `n` bytes received in order. -/
def rxBytes : Nat → State → List EnvEvent → (List Byte → List EnvEvent → Option (Result State)) → Option (Result State)
  | 0, _, env, k => k [] env
  | n + 1, s, env, k => rxByte s env fun b env => rxBytes n s env fun bs env => k (b :: bs) env

/-- The CRC exchange with trailer `T` (spec/40_crc.md R124, R125), and what follows a correct echo. -/
def crcExchange (t : Word) (s : State) (env : List EnvEvent) (k : State → List EnvEvent → Option (Result State)) :
    Option (Result State) :=
  txByte (lowByte t) s env fun s env => txByte (highByte t) s env fun s env =>
  rxByte s env fun lo env => rxByte s env fun hi env =>
  if echoWord hi lo ≠ t then some (.next { raise .crcMismatch s with env := env }) else k s env

/-- The end of a transaction. -/
def done (s : State) (env : List EnvEvent) : Option (Result State) := some (.next { s with env := env })

/-- Use a capability's value, or end as it says. -/
def programCap {α : Type} (r : Cap α) (s : State) (env : List EnvEvent) (k : α → Option (Result State)) :
    Option (Result State) :=
  match r with
  | .ok a => k a
  | .abort c => done (raise c s) env
  | .fault f => some (.fault f)

/-- Apply an effect on the ports, record the call, and end. -/
def programCommit (r : Except Fault State) (e : OutEvent) (env : List EnvEvent) : Option (Result State) :=
  match r with
  | .ok s => done (s.emit e) env
  | .error f => some (.fault f)

/-- `generic_read()` (R162), entered after the function code `F2`. -/
def genericReadProgram (s : State) (env : List EnvEvent) : Option (Result State) :=
  rxByte s env fun t env =>
  match lookup s.cfg t with
  | none => done (raise .unknownType (s.emit (.diag (.unknownType t)))) env
  | some _ =>
    rxByte s env fun c env =>
    programCap (readLength s t c) s env fun n =>
    if n = 0 then done (raise .noCapability s) env
    else if s.cfg.maxPayload < n then done (raise .lengthOverflow s) env
    else
      txByte (BitVec.ofNat 8 n) s env fun s env =>
      programCap (readPayload s t c) s env fun bytes =>
      txBytes bytes s env fun s env =>
      crcExchange (trailer (crcOf s.cfg.crcAlgo 0 (0xF2 :: t :: c :: BitVec.ofNat 8 n :: bytes))) s env fun s env =>
      programCommit (readDone t c s) (.readDone t c) env

/-- The external write (spec/41_dispatch_registry.md R142) after the bytes `got`, with the CRC folded so far. -/
def externalWriteProgram (t : Byte) (s : State) : List Byte → Word → List EnvEvent → Option (Result State)
  | got, crc, env =>
    match extOp (extBody s t) got with
    | .abort c => done (raise c s) env
    | .exchange => crcExchange (trailer crc) s env fun s env => done (s.emit (.writeDone t)) env
    | .receive =>
      match env with
      | [] => none
      | .rx b :: env => externalWriteProgram t s (got ++ [b]) (accumulate s.cfg.crcAlgo crc b) env
      | .abort :: env => some (.next { raise .busFault s with env := env })
      | _ => some (.fault .answerMismatch)

/-- The port's write function (R182), with channel, length and payload. -/
def portWriteProgram (t : Byte) (s : State) (env : List EnvEvent) : Option (Result State) :=
  rxByte s env fun c env =>
  if c = 0 ∨ s.cfg.nPort < c.toNat then done (raise .badChannel s) env
  else
    rxByte s env fun n env =>
    if n ≠ 1 ∧ n ≠ 2 then done (raise .badLength s) env
    else
      rxBytes n.toNat s env fun bytes env =>
      crcExchange (trailer (crcOf s.cfg.crcAlgo 0 (0xF4 :: t :: c :: n :: bytes))) s env fun s env =>
      match bytes with
      | [v] => programCommit (portSet (portOf c) (logicalValue v) s) (.writeDone t) env
      | v :: m :: _ => programCommit (portMaskedWrite (portOf c) v m s) (.writeDone t) env
      | [] => none

/-- `generic_write()` (R182), entered after the function code `F4`. -/
def genericWriteProgram (s : State) (env : List EnvEvent) : Option (Result State) :=
  rxByte s env fun t env =>
  match lookup s.cfg t with
  | none => done (raise .unknownType (s.emit (.diag (.unknownType t)))) env
  | some .dummy => done (raise .noCapability s) env
  | some .external => externalWriteProgram t s [] (crcOf s.cfg.crcAlgo 0 [0xF4, t]) env
  | some .port => portWriteProgram t s env

end Sys2Proof.Machine
end

