-- ==== Sys2Proof/Safety.lean ====
section
/-! DEFINITION. What counts as a good state and a good run, in the terms the statements use: the invariant of the
machine, the persistent state, the scripts of an environment that answers correctly, and runs of micro steps. -/

namespace Sys2Proof.Machine

/-! ### The invariant -/

/-- The space PORTS is in canonical form and names no port at or beyond `N_PORT` (spec/44_port.md R211). -/
def State.portsOk (s : State) : Bool := s.ports.wf && s.ports.all fun cell => decide (cell.1 < s.cfg.nPort)

/-- `POLL_CUR < N_PORT`; `RUN_MAX` is at most one past the last port checked in the cycle; `CACHE` at most `N_PORT`
(spec/10_state.md R44 to R46). -/
def State.pollerOk (s : State) : Bool :=
  decide (s.pollCur.toNat < s.cfg.nPort)
    && decide (s.runMax.toNat ≤ if s.pollCur = 0 then s.cfg.nPort else s.pollCur.toNat)
    && decide (s.cache.toNat ≤ s.cfg.nPort)

/-- No transaction register but `CRC` and `TAG` holds a value. -/
def State.noOperands (s : State) : Bool :=
  s.chan.isNone && s.len.isNone && s.buf.isEmpty && s.idx.isNone && s.echoLo.isNone && s.xw.isNone

/-- No transaction register holds a value (R40). -/
def State.noTransaction (s : State) : Bool := s.crc.isNone && s.tag.isNone && s.noOperands

/-- The tag is one of the implementation's. -/
def State.tagged (s : State) (impl : TypeImpl) : Bool := s.tag.any fun t => lookup s.cfg t == some impl

/-- The tag and the channel of a read that `read_length` accepted. -/
def State.readAddressed (s : State) : Bool :=
  s.tag.any fun t => s.chan.any fun c =>
    (lookup s.cfg t).isSome && (lookup s.cfg t != some .port || decide (c.toNat ≤ s.cfg.nPort))

/-- The capability answers a value that meets `p`. -/
def Cap.any {α : Type} (r : Cap α) (p : α → Bool) : Bool :=
  match r with
  | .ok a => p a
  | .abort _ => false
  | .fault _ => false

/-- `LEN` is the number of bytes `read` will produce, in 1..MAX_PAYLOAD (spec/42_generic_read.md R153, R165). -/
def State.readReady (s : State) : Bool :=
  s.tag.any fun t => s.chan.any fun c => s.len.any fun n =>
    (readPayload s t c).any fun bytes =>
      bytes.length == n.toNat && decide (1 ≤ n.toNat) && decide (n.toNat ≤ s.cfg.maxPayload)

/-- `LEN` holds a value that meets `p`. -/
def State.lenIs (s : State) (p : Nat → Bool) : Bool := s.len.any fun n => p n.toNat

/-- `IDX` holds a value that meets `p`. -/
def State.idxIs (s : State) (p : Nat → Bool) : Bool := s.idx.any fun i => p i.toNat

/-- The channel names a port. -/
def State.writeAddressed (s : State) : Bool := s.tagged .port && s.chan.any (namesPort s.cfg)

/-- `IDX` and `ECHO` while trailer bytes go out: position 0 or 1, no echo byte yet. -/
def State.sendingTrailer (s : State) : Bool := s.idxIs (fun i => decide (i ≤ 1)) && s.echoLo.isNone

/-- `IDX` and `ECHO` while echo bytes come in: position 0 with no echo byte, or position 1 with the low one. -/
def State.receivingEcho (s : State) : Bool := s.idxIs fun i => decide (i ≤ 1) && (s.echoLo.isSome == decide (i = 1))

/-- Which transaction registers hold a value at each position, and the bounds they meet (R33 to R40). -/
def State.registersOk (s : State) : Bool :=
  s.echoHi.isNone &&
  match s.eng with
  | .idle => s.noTransaction
  | .rdTag => s.crc.isSome && s.tag.isNone && s.noOperands
  | .wrTag => s.crc.isSome && s.tag.isNone && s.noOperands
  | .rdChan => s.crc.isSome && (s.tag.any fun t => (lookup s.cfg t).isSome) && s.noOperands
  | .rdLenTx =>
    s.crc.isSome && s.readAddressed && s.readReady && s.buf.isEmpty && s.idx.isNone && s.echoLo.isNone && s.xw.isNone
  | .rdDataTx =>
    s.crc.isSome && s.readAddressed
      && (s.lenIs fun n => s.buf.length == n && decide (n ≤ s.cfg.maxPayload) && s.idxIs fun i => decide (i < n))
      && s.echoLo.isNone && s.xw.isNone
  | .rdCrcTx =>
    s.crc.isSome && s.readAddressed && (s.lenIs fun n => s.buf.length == n) && s.sendingTrailer && s.xw.isNone
  | .rdEchoRx =>
    s.crc.isSome && s.readAddressed && (s.lenIs fun n => s.buf.length == n) && s.receivingEcho && s.xw.isNone
  | .pwChan => s.crc.isSome && s.tagged .port && s.noOperands
  | .pwLen =>
    s.crc.isSome && s.writeAddressed && s.len.isNone && s.buf.isEmpty && s.idx.isNone && s.echoLo.isNone
      && s.xw.isNone
  | .pwData =>
    s.crc.isSome && s.writeAddressed
      && (s.lenIs fun n => (n == 1 || n == 2) && s.idxIs fun i => decide (i < n) && s.buf.length == i)
      && s.echoLo.isNone && s.xw.isNone
  | .pwCrcTx =>
    s.crc.isSome && s.writeAddressed && (s.lenIs fun n => (n == 1 || n == 2) && s.buf.length == n)
      && s.sendingTrailer && s.xw.isNone
  | .pwEchoRx =>
    s.crc.isSome && s.writeAddressed && (s.lenIs fun n => (n == 1 || n == 2) && s.buf.length == n)
      && s.receivingEcho && s.xw.isNone
  | .xw =>
    s.crc.isSome && s.tagged .external && s.chan.isNone && s.len.isNone && s.buf.isEmpty &&
    match s.xw with
    | some (.receive _) => s.idx.isNone && s.echoLo.isNone
    | some .trailer => s.sendingTrailer
    | some .echo => s.receivingEcho
    | none => false

/-- The invariant: a legal configuration, and everything the rules of spec/10_state.md say always holds. -/
def State.inv (s : State) : Bool := s.cfg.wf && s.portsOk && s.pollerOk && s.registersOk

/-! ### Rest and persistence -/

/-- The block at rest: the invariant holds and no transaction is in progress. -/
def State.AtRest (s : State) : Prop := s.inv = true ∧ s.eng = .idle

/-- The persistent state but `ENG` (R31), with the configuration and the EXTERNAL bodies, is the same in both. -/
def State.SamePersistent (s t : State) : Prop :=
  t.cfg = s.cfg ∧ t.ports = s.ports ∧ t.pollCur = s.pollCur ∧ t.runMax = s.runMax ∧ t.cache = s.cache ∧
    t.alertPresent = s.alertPresent ∧ t.ext = s.ext

/-- The events that answer a bus operation (R60). -/
def EnvEvent.answersBus : EnvEvent → Bool
  | .rx _ => true
  | .txDone => true
  | .abort => true
  | .iter _ => false
  | .ext _ _ => false

/-- Where an engine step may take `ENG` (R32, R33): the position itself, the next one, or `IDLE`. -/
def Eng.successors : Eng → List Eng
  | .idle => [.idle, .rdTag, .wrTag]
  | .rdTag => [.idle, .rdChan]
  | .rdChan => [.idle, .rdLenTx]
  | .rdLenTx => [.idle, .rdDataTx]
  | .rdDataTx => [.idle, .rdDataTx, .rdCrcTx]
  | .rdCrcTx => [.idle, .rdCrcTx, .rdEchoRx]
  | .rdEchoRx => [.idle, .rdEchoRx]
  | .wrTag => [.idle, .pwChan, .xw]
  | .pwChan => [.idle, .pwLen]
  | .pwLen => [.idle, .pwData]
  | .pwData => [.idle, .pwData, .pwCrcTx]
  | .pwCrcTx => [.idle, .pwCrcTx, .pwEchoRx]
  | .pwEchoRx => [.idle, .pwEchoRx]
  | .xw => [.idle, .xw]

/-! ### Scripts of the environment -/

/-- The answers to a CRC exchange whose echo is `e`: two transmits taken, then the echo, low byte first (R95). -/
def echoAnswers (e : Word) : List EnvEvent := [.txDone, .txDone, .rx (lowByte e), .rx (highByte e)]

/-- The answers to a read of `n` payload bytes whose echo is `e` (R94). -/
def readAnswers (n : Nat) (e : Word) : List EnvEvent := List.replicate (n + 1) .txDone ++ echoAnswers e

/-- The bytes of a trailer as they go out (R95). -/
def trailerOut (crc : Word) : List OutEvent := [.tx (lowByte (trailer crc)), .tx (highByte (trailer crc))]

/-- The bytes of a read response up to the trailer (R94). -/
def responseOut (bytes : List Byte) : List OutEvent := .tx (BitVec.ofNat 8 bytes.length) :: bytes.map .tx

/-- The CRC before the trailer of a read of `bytes` (spec/40_crc.md R122). -/
def readCrc (cfg : Config) (t c : Byte) (bytes : List Byte) : Word :=
  crcOf cfg.crcAlgo 0 (0xF2 :: t :: c :: BitVec.ofNat 8 bytes.length :: bytes)

/-- The CRC before the trailer of a port write (R122). -/
def portWriteCrc (cfg : Config) (k n : Byte) (payload : List Byte) : Word :=
  crcOf cfg.crcAlgo 0 (0xF4 :: cfg.portTag :: k :: n :: payload)

/-! ### Runs -/

/-- `n` micro steps, stopping at the first fault or refusal. -/
def runMicro : Nat → State → Result State
  | 0, s => .next s
  | n + 1, s =>
    match microStep s with
    | .next t => runMicro n t
    | .fault f => .fault f
    | .refused q => .refused q

/-- The next state of an outcome, if it is one. -/
def nextState (r : Result State) : Option State :=
  match r with
  | .next s => some s
  | _ => none

end Sys2Proof.Machine
end

