-- ==== Sys2Proof/Certificates/Slice0/Obligations.lean ====
section
/-! DEFINITION. The statements for the provers, each from a rule of spec/ or a section it rests on. Where a statement
gives the outward record `out`, its `tx` and `diag` entries are what the rules transmit and report; its `aborted`,
`readDone` and `writeDone` entries only name, in the model's record (log entry 10), the abort or the call that the rule
makes. Where a statement says that request bytes are left in `env`, that is log entry 13. -/

open Sys2Proof Sys2Proof.Machine

/-! ## Encoding -/

/-- A request decodes to an instruction exactly when the instruction is canonical and its encoding is what the bytes
begin with, whatever follows (spec/30_encoding.md R93 to R99). -/
def Obligations.DecodeReadsExactlyTheEncodedRequest : Prop :=
  ∀ (cfg : Config) (bytes rest : List Byte) (i : Instr),
    decode cfg bytes = .ok (i, rest) ↔ i.wf cfg = true ∧ bytes = encode cfg i ++ rest

/-- The first byte of R118 and one request of each family, byte by byte, in the default configuration. -/
def Obligations.SpecRequestsDecode : Prop :=
  decode Config.default [0b11110010, 0x05, 0x00] = .ok (.genericRead 0x05 0x00, []) ∧
  decode Config.default [0b11110100, 0x00] = .ok (.genericWrite 0x00, []) ∧
  decode Config.default [0x33] = .ok (.unknownFunction 0x33, []) ∧
  decode Config.default [0xF2, 0x02, 0x00] = .ok (.pbitmap, []) ∧
  decode Config.default [0xF2, 0x02, 0x03] = .ok (.preadStatus 0x03, []) ∧
  decode Config.default [0xF4, 0x02, 0x01, 0x01, 0x01] = .ok (.pset 0x01 0x01, []) ∧
  decode Config.default [0xF4, 0x02, 0x03, 0x02, 0x43, 0x43] = .ok (.pflags 0x03 0x43 0x43, []) ∧
  decode Config.default [0xF4, 0x02, 0x01, 0x03] = .ok (.portWriteBadLength 0x01 0x03, [])

/-! ## The machine -/

/-- At `IDLE`, when the next bytes on the bus decode to an instruction, the step is that instruction's meaning, with
the script moved past its request bytes. That the step runs the whole transaction is the model's choice (log entry 4). -/
def Obligations.StepRunsTheDecodedInstruction : Prop :=
  ∀ (s : State) (i : Instr) (left : List Byte),
    s.eng = .idle → decode s.cfg (leadingBytes s.env) = .ok (i, left) →
      step s = exec i { s with env := s.env.drop ((leadingBytes s.env).length - left.length) }

/-- Every step, the run of a whole transaction included, is a run of single engine steps, iterations and events of
the environment taken one after another (spec/10_state.md R33, spec/20_memory.md R82). The step's width is the model's
choice (log entry 4); this says that nothing depends on it. -/
def Obligations.StepIsARunOfMicroSteps : Prop :=
  ∀ s : State, ∃ n : Nat, 1 ≤ n ∧ runMicro n s = step s

/-- The invariant is kept by every step from every state that meets it. -/
def Obligations.StepKeepsTheInvariant : Prop :=
  ∀ s t : State, s.inv = true → step s = .next t → t.inv = true

/-- Power-on reset meets the invariant, in every legal configuration. -/
def Obligations.ResetMeetsTheInvariant : Prop :=
  State.reset.inv = true ∧ ∀ cfg : Config, cfg.wf = true → (State.resetWith cfg).inv = true

/-- From a state that meets the invariant no step reads a register without a value, an element outside the buffer or
a port that does not exist, and none is refused; the only stop is a script that answers another operation than the one
the block performs (R40, R38, R211; log entry 6). -/
def Obligations.NoStepReachesAModelFault : Prop :=
  ∀ s : State, s.inv = true → (∃ t, step s = .next t) ∨ step s = .fault .answerMismatch

/-- A script that only answers as R60 admits never stops the machine: at a receive position a byte or an abort, at a
transmit position an acceptance or an abort, at `IDLE` also an iteration. -/
def Obligations.AdmittedAnswersNeverStop : Prop :=
  ∀ (s : State) (e : EnvEvent), s.inv = true →
    (match e with
      | .rx _ => s.eng ∉ [.rdLenTx, .rdDataTx, .rdCrcTx, .pwCrcTx] ∧ s.xw ≠ some .trailer
      | .txDone => s.eng ∈ [.rdLenTx, .rdDataTx, .rdCrcTx, .pwCrcTx] ∨ s.xw = some .trailer
      | .abort => True
      | .iter _ => s.eng = .idle
      | .ext _ _ => False) →
    ∃ t, envStep e s = .next t

/-- R281: what power-on reset sets, and that the default configuration puts every port in layout A, mode Z, with every
flag clear. -/
def Obligations.PowerOnResetValues : Prop :=
  (∀ cfg : Config,
    let s := State.resetWith cfg
    s.eng = .idle ∧
    (s.crc = none ∧ s.tag = none ∧ s.chan = none ∧ s.len = none ∧ s.buf = [] ∧ s.idx = none ∧ s.echoLo = none ∧
      s.echoHi = none) ∧
    (∀ i, s.flags i = cfg.portInitFlags[i]?.getD 0x00) ∧
    s.pollCur = 0 ∧ s.runMax = 0 ∧ s.cache = 0 ∧ s.alertPresent = false) ∧
  ∀ i, i < State.reset.cfg.nPort →
    State.reset.flags i = 0x00 ∧ flagAlt (State.reset.flags i) = false ∧ mode (State.reset.flags i) = .z

/-- Building a configuration: an ill-formed one is refused, a legal one starts at reset (spec/41_dispatch_registry.md
R135, spec/93_implementation_defined.md U29). -/
def Obligations.BootRefusesIllFormedConfigurations : Prop :=
  ∀ cfg : Config,
    (cfg.wf = false → boot cfg = .refused .badConfig) ∧ (cfg.wf = true → boot cfg = .next (State.resetWith cfg))

/-- R11: no step changes a parameter. -/
def Obligations.NoStepChangesTheConfiguration : Prop :=
  ∀ s t : State, step s = .next t → t.cfg = s.cfg

/-- A bus operation the environment has not answered leaves the block waiting, with all its state (R55, R268). That
the wait is a step to the same state is the model's choice (log entry 5). -/
def Obligations.UnansweredOperationWaits : Prop :=
  ∀ s : State, s.env = [] → step s = .next s

/-- An engine step leaves `ENG` at the position it performed, the next one, or `IDLE` (R32, R33). -/
def Obligations.EngineFollowsItsPositions : Prop :=
  ∀ (s t : State) (e : EnvEvent), e.answersBus = true → envStep e s = .next t → t.eng ∈ s.eng.successors

/-! ## Aborts -/

/-- R254 and R282: an abort goes to `IDLE`, discards the transaction registers, writes no persistent element and
transmits nothing; the model's record alone names the cause (log entry 10). -/
def Obligations.AbortDiscardsTheTransaction : Prop :=
  ∀ (s : State) (c : AbortCause),
    (raise c s).eng = .idle ∧
    ((raise c s).crc = none ∧ (raise c s).tag = none ∧ (raise c s).chan = none ∧ (raise c s).len = none ∧
      (raise c s).buf = [] ∧ (raise c s).idx = none ∧ (raise c s).echoLo = none ∧ (raise c s).echoHi = none) ∧
    s.SamePersistent (raise c s) ∧
    (raise c s).out = s.out ++ [.aborted c]

/-- R252 and R258: the environment's `ABORT` ends any transaction with a bus fault in place of the step, the last echo
byte included, so that nothing commits; at `IDLE` it has no effect. -/
def Obligations.BusAbortEndsAnyTransaction : Prop :=
  ∀ (s : State) (es : List EnvEvent), s.env = .abort :: es →
    (s.eng ≠ .idle → step s = .next { raise .busFault s with env := es }) ∧
    (s.eng = .idle → step s = .next { s with env := es })

/-- R256: a transaction that ends in an abort leaves every element as it was when its function code was received. That
it ended in an abort is read off the model's record (log entry 10). -/
def Obligations.AbortIsPreciseForEveryInstruction : Prop :=
  ∀ (i : Instr) (s t : State) (c : AbortCause),
    s.AtRest → exec i s = .next t → t.eng = .idle → t.out.getLast? = some (.aborted c) →
      t = { s with env := t.env, out := t.out }

/-- R184: before the successful echo comparison no engine step writes a persistent element. From every state, a step that
leaves the transaction in progress or aborts it (the record says which, log entry 10) writes none; and from a state that
meets the invariant, a step that writes one is the receive of the second echo byte at an echo position, the echo equals
the inverted CRC, and the step ends the transaction. -/
def Obligations.NothingPersistentIsWrittenBeforeTheCommit : Prop :=
  ∀ (s t : State) (e : EnvEvent),
    e.answersBus = true → envStep e s = .next t →
      ((t.eng ≠ .idle ∨ ∃ c, t.out.getLast? = some (.aborted c)) → s.SamePersistent t) ∧
      (s.inv = true → ¬ s.SamePersistent t →
        (s.eng = .rdEchoRx ∨ s.eng = .pwEchoRx) ∧ s.idx = some 1 ∧ t.eng = .idle ∧
          ∃ hi lo crc, e = .rx hi ∧ s.echoLo = some lo ∧ s.crc = some crc ∧ echoWord hi lo = trailer crc)

/-- No instruction writes `POLL_CUR`, `RUN_MAX`, `CACHE`, `ALERT_PRESENT`, the configuration or an EXTERNAL body,
whether it commits, aborts or waits (R44 to R47: the mainloop alone writes them). -/
def Obligations.NoInstructionWritesThePoller : Prop :=
  ∀ (i : Instr) (s t : State), exec i s = .next t →
    t.cfg = s.cfg ∧ t.pollCur = s.pollCur ∧ t.runMax = s.runMax ∧ t.cache = s.cache ∧
      t.alertPresent = s.alertPresent ∧ t.ext = s.ext

/-- The frame of the port space for every instruction: a port whose flags differ afterwards is the one the instruction
addresses, through a registry entry that is the port's. -/
def Obligations.OnlyTheAddressedPortChanges : Prop :=
  ∀ (i : Instr) (s t : State) (j : Nat), s.AtRest → exec i s = .next t → t.flags j ≠ s.flags j →
    match i with
    | .genericRead y c => lookup s.cfg y = some .port ∧ c ≠ 0 ∧ j = portOf c
    | .genericWrite y => lookup s.cfg y = some .port ∧ j < s.cfg.nPort
    | .unknownFunction b => (b = 0xF2 ∨ b = 0xF4) ∧ j < s.cfg.nPort
    | .pbitmap => False
    | .preadStatus k => k ≠ 0 ∧ j = portOf k
    | .pset k _ => namesPort s.cfg k = true ∧ j = portOf k
    | .pflags k _ _ => namesPort s.cfg k = true ∧ j = portOf k
    | .portWriteBadLength k n => (n = 1 ∨ n = 2) ∧ namesPort s.cfg k = true ∧ j = portOf k

/-! ## The CRC -/

/-- R121 with the default `CRC_ALGO`: the loop, and the rule's corner cases and example. -/
def Obligations.AccumulateIsTheOneWireFold : Prop :=
  (∀ (crc : Word) (b : Byte),
    accumulate .oneWire crc b =
      (List.range 8).foldl (fun c _ => if c.getLsbD 0 then (c >>> 1) ^^^ 0xA001 else c >>> 1)
        (crc ^^^ b.setWidth 16)) ∧
  accumulate .oneWire 0x0000 0x00 = 0x0000 ∧ accumulate .oneWire 0x0000 0x80 = 0xA001 ∧
  accumulate .oneWire 0xFFFF 0xFF = 0x00FF ∧ accumulate .oneWire 0x0000 0xF2 = 0x8581

/-- R126: the fold of a sequence depends on its order. -/
def Obligations.CrcDependsOnOrder : Prop :=
  (∀ (a : CrcAlgo) (crc : Word) (b : Byte) (bytes : List Byte),
    crcOf a crc (b :: bytes) = crcOf a (accumulate a crc b) bytes ∧ crcOf a crc [] = crc) ∧
  crcOf .oneWire 0 [0x01, 0x02] = 0x5180 ∧ crcOf .oneWire 0 [0x02, 0x01] = 0xA0C0

/-- The residue of every message under the default CRC: folding a message and then its own CRC, low byte first, gives
0 (spec/95_test_vectors.md L2.CRC.8: it "hold[s] for every message under this CRC"). -/
def Obligations.OwnCrcFoldsToZero : Prop :=
  ∀ (crc : Word) (bytes : List Byte),
    crcOf .oneWire crc (bytes ++ [lowByte (crcOf .oneWire crc bytes), highByte (crcOf .oneWire crc bytes)]) = 0

/-- The trailer is never the CRC itself, so that an initiator that forgets the inversion always fails (R163). -/
def Obligations.TrailerIsNeverTheCrc : Prop :=
  ∀ crc : Word, trailer crc ≠ crc ∧ echoWord (highByte crc) (lowByte crc) ≠ trailer crc

/-! ## Reads -/

/-- A generic read of any device type whose capability answers a payload of 1..MAX_PAYLOAD bytes, with a correct echo:
it transmits length, payload and trailer, then runs `read_done` once, and ends at rest with everything else as it was
(R151 to R160). -/
def Obligations.GenericReadCompletes : Prop :=
  ∀ (s : State) (t c : Byte) (bytes : List Byte) (rest : List EnvEvent),
    s.AtRest → readLength s t c = .ok bytes.length → readPayload s t c = .ok bytes →
    1 ≤ bytes.length → bytes.length ≤ s.cfg.maxPayload →
    s.env = readAnswers bytes.length (trailer (readCrc s.cfg t c bytes)) ++ rest →
    ∃ u, readDone t c s = .ok u ∧
      exec (.genericRead t c) s = .next { u with
        env := rest
        out := s.out ++ responseOut bytes ++ trailerOut (readCrc s.cfg t c bytes) ++ [.readDone t c] }

/-- A generic read with any other echo ends in `CRC_MISMATCH`: the same bytes go out, and nothing else has changed
(R159, R287). -/
def Obligations.GenericReadWithAWrongEchoAborts : Prop :=
  ∀ (s : State) (t c : Byte) (bytes : List Byte) (e : Word) (rest : List EnvEvent),
    s.AtRest → readLength s t c = .ok bytes.length → readPayload s t c = .ok bytes →
    1 ≤ bytes.length → bytes.length ≤ s.cfg.maxPayload → e ≠ trailer (readCrc s.cfg t c bytes) →
    s.env = readAnswers bytes.length e ++ rest →
    exec (.genericRead t c) s = .next { s with
      env := rest
      out := s.out ++ responseOut bytes ++ trailerOut (readCrc s.cfg t c bytes) ++ [.aborted .crcMismatch] }

/-- R162: the generic read run by the engine, one bus operation a step, is the sequential program; where the
environment has not answered all of it, the engine waits inside the transaction. -/
def Obligations.GenericReadIsItsSequentialProgram : Prop :=
  ∀ (s : State) (t c : Byte), s.AtRest →
    match genericReadProgram s (.rx t :: .rx c :: s.env) with
    | some r => exec (.genericRead t c) s = r
    | none => ∃ u, exec (.genericRead t c) s = .next u ∧ u.eng ≠ .idle ∧ u.env = []

/-- The reads that abort before any byte is transmitted (R131, R132, R153, R163): a tag at or beyond `N_TYPES` after
the tag byte, so that the channel byte is still on the bus (log entry 13); a dummy and a length above `MAX_PAYLOAD` after the channel
byte. That an EXTERNAL length may be above 255 is the model's choice (log entry 21). -/
def Obligations.RejectedReadsTransmitNothing : Prop :=
  ∀ (s : State) (t c : Byte), s.AtRest →
    (s.cfg.nTypes ≤ t.toNat → exec (.genericRead t c) s =
      .next { s with env := .rx c :: s.env, out := s.out ++ [.diag (.unknownType t), .aborted .unknownType] }) ∧
    (lookup s.cfg t = some .dummy → exec (.genericRead t c) s =
      .next { s with out := s.out ++ [.aborted .noCapability] }) ∧
    (∀ n, readLength s t c = .ok n → s.cfg.maxPayload < n → exec (.genericRead t c) s =
      .next { s with out := s.out ++ [.aborted .lengthOverflow] })

/-- PBITMAP with a correct echo (R94, R105, R201): length `ceil(N_PORT/8)`, the packed levels and the trailer go out;
no port changes (R203). -/
def Obligations.PbitmapCompletes : Prop :=
  ∀ (s : State) (rest : List EnvEvent),
    let crc := readCrc s.cfg s.cfg.portTag 0 (levelBitmap s)
    s.AtRest → s.env = readAnswers (ceilDiv8 s.cfg.nPort) (trailer crc) ++ rest →
    exec .pbitmap s = .next { s with
      env := rest
      out := s.out ++ responseOut (levelBitmap s) ++ trailerOut crc ++ [.readDone s.cfg.portTag 0] }

/-- PREAD_STATUS with a correct echo (R94, R106, R202): length 1, the flags byte and the trailer go out; then `CHANGED`
and `POLL` of that port are cleared (R203) and nothing else has changed. -/
def Obligations.PreadStatusCompletes : Prop :=
  ∀ (s : State) (k : Byte) (rest : List EnvEvent),
    let f := s.flags (portOf k)
    let crc := readCrc s.cfg s.cfg.portTag k [f]
    s.AtRest → namesPort s.cfg k = true → s.env = readAnswers 1 (trailer crc) ++ rest →
    exec (.preadStatus k) s = .next { s.setFlags (portOf k) (deliveredFlags f) with
      env := rest
      out := s.out ++ [.tx 1, .tx f] ++ trailerOut crc ++ [.readDone s.cfg.portTag k] }

/-- A status read delivered once clears the report: read again, the byte has `CHANGED = 0` and `POLL = 0` and its other
bits as before, and every other port is as it was (spec/20_memory.md R83, R203). -/
def Obligations.DeliveredReportIsCleared : Prop :=
  ∀ (s t : State) (k : Byte) (crc : Word) (rest : List EnvEvent),
    s.AtRest → namesPort s.cfg k = true → crc = readCrc s.cfg s.cfg.portTag k [s.flags (portOf k)] →
    s.env = readAnswers 1 (trailer crc) ++ rest → exec (.preadStatus k) s = .next t →
    flagChanged (t.flags (portOf k)) = false ∧ flagPoll (t.flags (portOf k)) = false ∧
      (∀ b, b ≠ 4 → b ≠ 5 → (t.flags (portOf k)).getLsbD b = (s.flags (portOf k)).getLsbD b) ∧
      ∀ j, j ≠ portOf k → t.flags j = s.flags j

/-! ## Writes -/

/-- PSET with a correct echo (R97, R124, R179, R194): only the trailer goes out; if the mode of the port already encodes
the value nothing changes, else its level bit and `CURRENT` take it. -/
def Obligations.PsetCompletes : Prop :=
  ∀ (s : State) (k v : Byte) (rest : List EnvEvent),
    let crc := portWriteCrc s.cfg k 1 [v]
    let f := s.flags (portOf k)
    s.AtRest → namesPort s.cfg k = true → s.env = echoAnswers (trailer crc) ++ rest →
    exec (.pset k v) s = .next
      { (if lvl f = logicalValue v then s else s.setFlags (portOf k) (commandedFlags (logicalValue v) f)) with
        env := rest
        out := s.out ++ trailerOut crc ++ [.writeDone s.cfg.portTag] }

/-- PFLAGS with a correct echo (R98, R124, R180, R205): only the trailer goes out; the flags of the port take the value's
bits where the mask is 1. -/
def Obligations.PflagsCompletes : Prop :=
  ∀ (s : State) (k v m : Byte) (rest : List EnvEvent),
    let crc := portWriteCrc s.cfg k 2 [v, m]
    s.AtRest → namesPort s.cfg k = true → s.env = echoAnswers (trailer crc) ++ rest →
    exec (.pflags k v m) s = .next
      { s.setFlags (portOf k) (maskedFlags v m (s.flags (portOf k))) with
        env := rest
        out := s.out ++ trailerOut crc ++ [.writeDone s.cfg.portTag] }

/-- A port write with any other echo applies nothing (R128, R178, R183). -/
def Obligations.PortWriteWithAWrongEchoAppliesNothing : Prop :=
  ∀ (s : State) (k v m : Byte) (e : Word) (rest : List EnvEvent),
    s.AtRest → namesPort s.cfg k = true → s.env = echoAnswers e ++ rest →
    (e ≠ trailer (portWriteCrc s.cfg k 1 [v]) → exec (.pset k v) s = .next { s with
      env := rest
      out := s.out ++ trailerOut (portWriteCrc s.cfg k 1 [v]) ++ [.aborted .crcMismatch] }) ∧
    (e ≠ trailer (portWriteCrc s.cfg k 2 [v, m]) → exec (.pflags k v m) s = .next { s with
      env := rest
      out := s.out ++ trailerOut (portWriteCrc s.cfg k 2 [v, m]) ++ [.aborted .crcMismatch] })

/-- A port write of reserved length to a port that exists aborts `BAD_LENGTH` at the length byte, before any payload
byte (R112, R175). -/
def Obligations.PortWriteBadLengthAborts : Prop :=
  ∀ (s : State) (k n : Byte), s.AtRest → namesPort s.cfg k = true → n ≠ 1 → n ≠ 2 →
    exec (.portWriteBadLength k n) s = .next { s with out := s.out ++ [.aborted .badLength] }

/-- R111: the reserved channels. A read above `N_PORT` and a write to 0 or above `N_PORT` abort `BAD_CHANNEL` at the
channel byte. That the request bytes after it are the next the block receives is the model's reading (log entry 13). -/
def Obligations.ReservedChannelsAbort : Prop :=
  ∀ (s : State) (k v m n : Byte), s.AtRest → namesPort s.cfg k = false →
    (k ≠ 0 → exec (.preadStatus k) s = .next { s with out := s.out ++ [.aborted .badChannel] }) ∧
    exec (.pset k v) s =
      .next { s with env := .rx 1 :: .rx v :: s.env, out := s.out ++ [.aborted .badChannel] } ∧
    exec (.pflags k v m) s =
      .next { s with env := .rx 2 :: .rx v :: .rx m :: s.env, out := s.out ++ [.aborted .badChannel] } ∧
    exec (.portWriteBadLength k n) s =
      .next { s with env := .rx n :: s.env, out := s.out ++ [.aborted .badChannel] }

/-- A generic write to an EXTERNAL type whose body receives the bytes `got` and then makes the CRC exchange, with a
correct echo: the trailer goes out, the body's commit is called, and the core's state is as it was (R136 point 3, R142;
log entry 9). -/
def Obligations.ExternalWriteCompletes : Prop :=
  ∀ (s : State) (t : Byte) (got : List Byte) (rest : List EnvEvent),
    let crc := crcOf s.cfg.crcAlgo 0 (0xF4 :: t :: got)
    s.AtRest → lookup s.cfg t = some .external →
    (∀ n, n < got.length → extOp (extBody s t) (got.take n) = .receive) →
    extOp (extBody s t) got = .exchange →
    s.env = got.map .rx ++ echoAnswers (trailer crc) ++ rest →
    exec (.genericWrite t) s = .next { s with
      env := rest
      out := s.out ++ trailerOut crc ++ [.writeDone t] }

/-- A generic write addressed to `PORT_TAG` is the port write that the bytes after the tag make it (R171, R172). -/
def Obligations.GenericWriteToThePortIsThePortWrite : Prop :=
  ∀ (s : State) (k n v m : Byte) (env : List EnvEvent),
    exec (.genericWrite s.cfg.portTag) { s with env := .rx k :: .rx 1 :: .rx v :: env } =
      exec (.pset k v) { s with env := env } ∧
    exec (.genericWrite s.cfg.portTag) { s with env := .rx k :: .rx 2 :: .rx v :: .rx m :: env } =
      exec (.pflags k v m) { s with env := env } ∧
    exec (.genericWrite s.cfg.portTag) { s with env := .rx k :: .rx n :: env } =
      exec (.portWriteBadLength k n) { s with env := env }

/-- The generic write run by the engine is the sequential program of R182; an EXTERNAL body's own sequence is the
model's parameter (R142, log entry 9). Where the environment has not answered all of
it, the engine waits inside the transaction. -/
def Obligations.GenericWriteIsItsSequentialProgram : Prop :=
  ∀ (s : State) (t : Byte), s.AtRest →
    match genericWriteProgram s (.rx t :: s.env) with
    | some r => exec (.genericWrite t) s = r
    | none => ∃ u, exec (.genericWrite t) s = .next u ∧ u.eng ≠ .idle ∧ u.env = []

/-- The writes that abort at the tag byte (R131, R132, R171): a tag at or beyond `N_TYPES`, and a dummy. -/
def Obligations.RejectedWritesAbortAtTheTag : Prop :=
  ∀ (s : State) (t : Byte), s.AtRest →
    (s.cfg.nTypes ≤ t.toNat → exec (.genericWrite t) s =
      .next { s with out := s.out ++ [.diag (.unknownType t), .aborted .unknownType] }) ∧
    (lookup s.cfg t = some .dummy → exec (.genericWrite t) s =
      .next { s with out := s.out ++ [.aborted .noCapability] })

/-- R140: a function code other than `F2` and `F4` is reported and aborted; nothing else changes. -/
def Obligations.UnknownFunctionAborts : Prop :=
  ∀ (s : State) (b : Byte), s.AtRest → b ≠ 0xF2 → b ≠ 0xF4 →
    exec (.unknownFunction b) s =
      .next { s with out := s.out ++ [.diag (.unknownFunction b), .aborted .unknownFunction] }

/-! ## The port -/

/-- R101, R102, R193: the mode of a flags byte in either layout, and the logical value each mode encodes. -/
def Obligations.ModesOfTheTwoLayouts : Prop :=
  ∀ f : Byte,
    mode f = (match flagAlt f, flagM1 f, flagM0 f with
      | false, false, false => .z
      | false, false, true => .pullup
      | false, true, false => .off
      | false, true, true => .on
      | true, false, false => .z
      | true, false, true => .off
      | true, true, false => .pullup
      | true, true, true => .on) ∧
    (lvl f = true ↔ mode f = .pullup ∨ mode f = .on)

/-- R191: each layout's encode is the inverse of its table, so that every mode has exactly one encoding in it. -/
def Obligations.EncodeInvertsEachLayout : Prop :=
  ∀ (f : Byte) (m : Mode), mode f = m ↔ (flagM1 f, flagM0 f) = modeBits (flagAlt f) m

/-- R192: the pin output of a port that exists is the drive of its mode, and depends on bits 0 to 2 of its flags
alone (R56). -/
def Obligations.PinOutputFollowsTheMode : Prop :=
  (∀ (s : State) (i : Nat), i < s.cfg.nPort →
    pinOutput s i = .ok (match mode (s.flags i) with
      | .off => .drivenLow
      | .on => .drivenHigh
      | .z => .highImpedance
      | .pullup => .pulledUp)) ∧
  ∀ f g : Byte, f &&& 0x07 = g &&& 0x07 → mode f = mode g

/-- R194: `port_set` writes nothing if the mode encodes the value already; otherwise exactly the level bit and
`CURRENT`, both with the value. -/
def Obligations.PortSetWritesLevelAndCurrent : Prop :=
  ∀ (s : State) (i : Nat) (v : Bool), s.portsOk = true → i < s.cfg.nPort →
    ∃ t, portSet i v s = .ok t ∧
      (lvl (s.flags i) = v → t = s) ∧
      (lvl (s.flags i) ≠ v →
        t = s.setFlags i (t.flags i) ∧
        ∀ b, b < 8 →
          (t.flags i).getLsbD b = if b = lvlBit (s.flags i) ∨ b = 3 then v else (s.flags i).getLsbD b)

/-- R195: after `port_set` the mode encodes the value, so that a second one writes nothing. -/
def Obligations.PortSetIsIdempotent : Prop :=
  ∀ (s t : State) (i : Nat) (v : Bool), s.portsOk = true → portSet i v s = .ok t →
    lvl (t.flags i) = v ∧ portSet i v t = .ok t

/-- R196: a sample equal to `CURRENT` writes nothing; one that differs is taken into `CURRENT`, sets `CHANGED` and is
reported. -/
def Obligations.PortCheckDetectsAChange : Prop :=
  ∀ (s : State) (i : Nat) (v : Bool), s.portsOk = true → i < s.cfg.nPort →
    (v = flagCurrent (s.flags i) → portCheck i v s = .ok s) ∧
    (v ≠ flagCurrent (s.flags i) → ∃ f : Byte,
      portCheck i v s = .ok ((s.setFlags i f).emit (.diag (.pinChange i))) ∧
      flagCurrent f = v ∧ flagChanged f = true ∧
      ∀ b, b ≠ 3 → b ≠ 4 → f.getLsbD b = (s.flags i).getLsbD b)

/-- R203: `read_done` of a channel that names a port clears `CHANGED` and `POLL` of that port and nothing else; of
channel 0 it does nothing. -/
def Obligations.ReadDoneClearsTheReport : Prop :=
  ∀ s : State, portReadDone 0 s = .ok s ∧
    ∀ c : Byte, namesPort s.cfg c = true →
      ∃ f : Byte, portReadDone c s = .ok (s.setFlags (portOf c) f) ∧
        flagChanged f = false ∧ flagPoll f = false ∧
        ∀ b, b ≠ 4 → b ≠ 5 → f.getLsbD b = (s.flags (portOf c)).getLsbD b

/-- R205: the masked write takes exactly the bits its mask selects. -/
def Obligations.MaskedWriteTakesTheSelectedBits : Prop :=
  ∀ (s : State) (i : Nat) (v m : Byte), i < s.cfg.nPort →
    ∃ f : Byte, portMaskedWrite i v m s = .ok (s.setFlags i f) ∧
      f = (s.flags i &&& ~~~m) ||| (v &&& m) ∧
      (∀ b, b < 8 → f.getLsbD b = if m.getLsbD b then v.getLsbD b else (s.flags i).getLsbD b) ∧
      (m = 0x00 → f = s.flags i) ∧ (m = 0xFF → f = v)

/-- R207: a mask with bits 0, 1 and 2 clear does not change the mode. -/
def Obligations.NonModeMaskKeepsTheMode : Prop :=
  ∀ v m f : Byte, m &&& 0x07 = 0x00 → mode (maskedFlags v m f) = mode f

/-- R200: the port's `read_length`. -/
def Obligations.PortReadLengthByChannel : Prop :=
  ∀ (s : State) (c : Byte),
    (c = 0 → portReadLength s c = .ok ((s.cfg.nPort + 7) / 8)) ∧
    (1 ≤ c.toNat → c.toNat ≤ s.cfg.nPort → portReadLength s c = .ok 1) ∧
    (s.cfg.nPort < c.toNat → portReadLength s c = .abort .badChannel)

/-- Wherever `read_length` accepts a channel, `read` produces that many bytes (spec/42_generic_read.md R165). A length
of 0 is no acceptance: it is the dummy's (R132, R153). For an EXTERNAL type it is how the model holds a body (log
entries 9 and 20). -/
def Obligations.ReadLengthAgreesWithRead : Prop :=
  ∀ (s : State) (t c : Byte) (n : Nat), readLength s t c = .ok n → 0 < n →
    ∃ bytes, readPayload s t c = .ok bytes ∧ bytes.length = n

/-- R105: the level bitmap has `ceil(N_PORT/8)` bytes, bit `i mod 8` of byte `i div 8` is `CURRENT` of port i, and the
residue bits are 0. -/
def Obligations.LevelBitmapPacksTheLevels : Prop :=
  ∀ s : State, (levelBitmap s).length = (s.cfg.nPort + 7) / 8 ∧
    ∀ i, i < 8 * ((s.cfg.nPort + 7) / 8) → ∃ b : Byte, (levelBitmap s)[i / 8]? = some b ∧
      b.getLsbD (i % 8) = (decide (i < s.cfg.nPort) && flagCurrent (s.flags i))

/-- R107: `alert_fill` has the same packing, of `pending(i) AND ALERT`. -/
def Obligations.AlertFillPacksTheAlerts : Prop :=
  ∀ s : State, (portAlertFill s).length = (s.cfg.nPort + 7) / 8 ∧
    ∀ i, i < 8 * ((s.cfg.nPort + 7) / 8) → ∃ b : Byte, (portAlertFill s)[i / 8]? = some b ∧
      b.getLsbD (i % 8) = (decide (i < s.cfg.nPort) &&
        ((flagChanged (s.flags i) || flagPoll (s.flags i)) && flagAlert (s.flags i)))

/-! ## The mainloop -/

/-- One iteration at `IDLE`, whole (R231 to R236): every element it writes, and that nothing else changes. -/
def Obligations.MainloopIterationEffect : Prop :=
  ∀ (s : State) (v : Bool) (es : List EnvEvent), s.AtRest → s.env = .iter v :: es →
    let i := s.pollCur.toNat
    let f := s.flags i
    let f' := if v = flagCurrent f then f else changedFlags v f
    ∃ t, step s = .next t ∧
      t.flags i = f' ∧ (∀ j, j ≠ i → t.flags j = s.flags j) ∧
      t.cache = (if i = 0 then s.runMax else s.cache) ∧
      t.runMax = (if flagChanged f' || flagPoll f' then s.pollCur + 1 else if i = 0 then 0 else s.runMax) ∧
      t.pollCur.toNat = (i + 1) % s.cfg.nPort ∧
      t.alertPresent = (s.cfg.condSearchEn && anyAlert t) ∧
      t.out = s.out ++ (if v = flagCurrent f then [] else [.diag (.pinChange i)]) ∧
      t = { s with
        ports := t.ports, cache := t.cache, runMax := t.runMax, pollCur := t.pollCur, alertPresent := t.alertPresent,
        out := t.out, env := es }

/-- An iteration is enabled exactly when `ENG = IDLE` (R230). That an iteration scheduled inside a transaction is a fault
is the model's choice (log entry 6). -/
def Obligations.IterationIsEnabledExactlyAtIdle : Prop :=
  ∀ (s : State) (v : Bool), s.inv = true → ((∃ t, envStep (.iter v) s = .next t) ↔ s.eng = .idle)

/-- R238: from one cycle start to the next, `RUN_MAX` never decreases. -/
def Obligations.RunningMaximumNeverDecreases : Prop :=
  ∀ (s t : State) (v : Bool), s.inv = true → s.pollCur ≠ 0 → envStep (.iter v) s = .next t →
    s.runMax.toNat ≤ t.runMax.toNat

/-- R239: any `N_PORT` consecutive iterations check every port exactly once, in index order from the cursor: port
`(cursor + k) mod N_PORT` takes the k-th sample, and the cursor is back where it stood. -/
def Obligations.EveryPortIsSampledInACycle : Prop :=
  ∀ (s : State) (samples : List Bool) (es : List EnvEvent),
    s.AtRest → samples.length = s.cfg.nPort → s.env = samples.map .iter ++ es →
    ∃ t, Host.Core.run Sys2Proof.core s.cfg.nPort s = .next t ∧
      t.env = es ∧ t.pollCur = s.pollCur ∧
      ∀ k, k < s.cfg.nPort →
        some (flagCurrent (t.flags ((s.pollCur.toNat + k) % s.cfg.nPort))) = samples[k]?

/-- No result depends on `CACHE`: two states that differ in it alone step alike, and differ in it alone afterwards (R46,
R237). -/
def Obligations.NoResultDependsOnTheCache : Prop :=
  ∀ (s : State) (x : Byte),
    match step s, step { s with cache := x } with
    | .next t, .next u => u = { t with cache := u.cache }
    | .fault f, .fault g => f = g
    | .refused q, .refused r => q = r
    | _, _ => False

/-- R208, R235: in a legal configuration the aggregate condition is that some port has a pending report and is armed, or
that an EXTERNAL type reports an alert. -/
def Obligations.AggregateAlertIsAnArmedReport : Prop :=
  ∀ s : State, s.cfg.wf = true →
    (anyAlert s = true ↔
      (∃ i, i < s.cfg.nPort ∧ (flagChanged (s.flags i) || flagPoll (s.flags i)) = true ∧
        flagAlert (s.flags i) = true) ∨
      ∃ t : Byte, lookup s.cfg t = some .external ∧ (extBody s t).alert = true)

/-- An EXTERNAL body moves on only between transactions and changes nothing the core holds and no other body (R61, R136
points 2 and 4; log entry 9). -/
def Obligations.ExternalBodyChangesNoCoreState : Prop :=
  ∀ (s t : State) (y : Byte) (body : ExtBody), envStep (.ext y body) s = .next t →
    s.eng = .idle ∧ lookup s.cfg y = some .external ∧ extBody t y = body ∧
      (∀ z, z ≠ y → extBody t z = extBody s z) ∧ t = { s with ext := t.ext }
end

