-- ==== Sys2Proof/Laws/Memory.lean ====
section
/-! SUPPORT. The port descriptor space: read after write, and every operation keeps the canonical form. -/

namespace Sys2Proof.Machine

/-- The head of a canonical list lies below every later address. -/
theorem Memory.wf_cons {a : Nat} {v : Byte} {m : Memory} :
    Memory.wf ((a, v) :: m) = true ↔ v ≠ Memory.unlisted ∧ (∀ cell ∈ m, a < cell.1) ∧ Memory.wf m = true := by
  simp [Memory.wf, and_assoc]

/-- An address that no entry names reads as unlisted. -/
theorem Memory.read_of_not_listed {m : Memory} {a : Nat} (h : ∀ cell ∈ m, cell.1 ≠ a) :
    Memory.read m a = Memory.unlisted := by
  induction m with
  | nil => rfl
  | cons cell m ih =>
    obtain ⟨x, w⟩ := cell
    have hx : x ≠ a := h (x, w) (by simp)
    simp only [Memory.read, if_neg hx]
    exact ih fun cell hc => h cell (by simp [hc])

/-- A write leaves every other address alone. -/
theorem Memory.read_write_other {m : Memory} {a b : Nat} {v : Byte} (h : b ≠ a) :
    Memory.read (Memory.write m a v) b = Memory.read m b := by
  induction m with
  | nil => by_cases hv : v = Memory.unlisted <;> simp [Memory.write, Memory.read, hv, Ne.symm h]
  | cons cell m ih =>
    obtain ⟨x, w⟩ := cell
    unfold Memory.write
    split
    · split <;> simp [Memory.read, Ne.symm h]
    · split
      · rename_i hax
        subst hax
        split <;> simp [Memory.read, Ne.symm h]
      · simp [Memory.read, ih]

/-- A write to a canonical space is read back. -/
theorem Memory.read_write_same {m : Memory} {a : Nat} {v : Byte} (h : m.wf = true) :
    Memory.read (Memory.write m a v) a = v := by
  induction m with
  | nil => by_cases hv : v = Memory.unlisted <;> simp [Memory.write, Memory.read, hv]
  | cons cell m ih =>
    obtain ⟨x, w⟩ := cell
    obtain ⟨-, hlt, hm⟩ := Memory.wf_cons.mp h
    unfold Memory.write
    split
    · rename_i hax
      split
      · rename_i hv
        rw [hv]
        apply Memory.read_of_not_listed
        intro cell hc
        rcases List.mem_cons.mp hc with rfl | hc
        · exact Nat.ne_of_gt hax
        · exact Nat.ne_of_gt (Nat.lt_trans hax (hlt cell hc))
      · simp [Memory.read]
    · split
      · rename_i hax
        subst hax
        split
        · rename_i hv
          rw [hv]
          exact Memory.read_of_not_listed fun cell hc => Nat.ne_of_gt (hlt cell hc)
        · simp [Memory.read]
      · rename_i hax
        simp [Memory.read, Ne.symm hax, ih hm]

/-- Every address of a written space is the written one or an address it had. -/
theorem Memory.mem_write {m : Memory} {a : Nat} {v : Byte} {cell : Host.Cell} (h : cell ∈ Memory.write m a v) :
    cell = (a, v) ∨ cell ∈ m := by
  induction m with
  | nil =>
    unfold Memory.write at h
    split at h <;> simp_all
  | cons c m ih =>
    obtain ⟨x, w⟩ := c
    unfold Memory.write at h
    split at h
    · split at h
      · exact .inr h
      · simpa using h
    · split at h
      · split at h
        · exact .inr (List.mem_cons_of_mem _ h)
        · rcases List.mem_cons.mp h with h | h
          · exact .inl h
          · exact .inr (List.mem_cons_of_mem _ h)
      · rcases List.mem_cons.mp h with h | h
        · exact .inr (h ▸ List.mem_cons_self)
        · exact (ih h).imp id (List.mem_cons_of_mem _)

/-- A write keeps the canonical form. -/
theorem Memory.wf_write {m : Memory} {a : Nat} {v : Byte} (h : m.wf = true) : (Memory.write m a v).wf = true := by
  induction m with
  | nil => by_cases hv : v = Memory.unlisted <;> simp [Memory.write, Memory.wf, hv]
  | cons cell m ih =>
    obtain ⟨x, w⟩ := cell
    obtain ⟨hw, hlt, hm⟩ := Memory.wf_cons.mp h
    unfold Memory.write
    split
    · rename_i hax
      split
      · exact h
      · rename_i hv
        refine Memory.wf_cons.mpr ⟨hv, fun cell hc => ?_, h⟩
        rcases List.mem_cons.mp hc with rfl | hc
        · exact hax
        · exact Nat.lt_trans hax (hlt cell hc)
    · split
      · rename_i hax
        subst hax
        split
        · exact hm
        · rename_i hv
          exact Memory.wf_cons.mpr ⟨hv, hlt, hm⟩
      · rename_i hna hax
        refine Memory.wf_cons.mpr ⟨hw, fun cell hc => ?_, ih hm⟩
        rcases Memory.mem_write hc with rfl | hc
        · simp only
          omega
        · exact hlt cell hc

/-- The space of initial flags is canonical, and every address of it lies in the listed range. -/
theorem Memory.ofFlags_bounds (flags : List Byte) (i : Nat) :
    (Memory.ofFlags i flags).wf = true ∧
      ∀ cell ∈ Memory.ofFlags i flags, i ≤ cell.1 ∧ cell.1 < i + flags.length := by
  induction flags generalizing i with
  | nil => simp [Memory.ofFlags, Memory.wf]
  | cons f flags ih =>
    obtain ⟨hwf, hb⟩ := ih (i + 1)
    by_cases hf : f = Memory.unlisted
    · simp only [Memory.ofFlags, if_pos hf]
      exact ⟨hwf, fun cell hc => by have := hb cell hc; simp only [List.length_cons]; omega⟩
    · simp only [Memory.ofFlags, if_neg hf]
      refine ⟨Memory.wf_cons.mpr ⟨hf, fun cell hc => by have := hb cell hc; omega, hwf⟩, fun cell hc => ?_⟩
      rcases List.mem_cons.mp hc with rfl | hc
      · simp
      · have := hb cell hc
        simp only [List.length_cons]
        omega

/-- The space of initial flags reads as those flags, and as 0x00 beyond them. -/
theorem Memory.read_ofFlags (flags : List Byte) (i j : Nat) :
    Memory.read (Memory.ofFlags i flags) (i + j) = flags[j]?.getD Memory.unlisted := by
  induction flags generalizing i j with
  | nil => simp [Memory.ofFlags, Memory.read]
  | cons f flags ih =>
    by_cases hf : f = Memory.unlisted
    · simp only [Memory.ofFlags, if_pos hf]
      cases j with
      | zero =>
        rw [Memory.read_of_not_listed]
        · simp [hf]
        · intro cell hc
          have := (Memory.ofFlags_bounds flags (i + 1)).2 cell hc
          omega
      | succ j =>
        have := ih (i + 1) j
        rw [show i + 1 + j = i + (j + 1) by omega] at this
        simpa using this
    · simp only [Memory.ofFlags, if_neg hf]
      cases j with
      | zero => simp [Memory.read]
      | succ j =>
        have := ih (i + 1) j
        rw [show i + 1 + j = i + (j + 1) by omega] at this
        simpa [Memory.read] using this

end Sys2Proof.Machine
end

