-- ==== Sys2Proof/Laws/State.lean ====
section
/-! SUPPORT. One lemma per field per named update of the state, so that later proofs need not unfold a record update. -/

namespace Sys2Proof.Machine

/-! ### `State.setFlags` -/

@[simp] theorem State.setFlags_cfg (s : State) (i : Nat) (f : Byte) : (s.setFlags i f).cfg = s.cfg := rfl
@[simp] theorem State.setFlags_eng (s : State) (i : Nat) (f : Byte) : (s.setFlags i f).eng = s.eng := rfl
@[simp] theorem State.setFlags_crc (s : State) (i : Nat) (f : Byte) : (s.setFlags i f).crc = s.crc := rfl
@[simp] theorem State.setFlags_tag (s : State) (i : Nat) (f : Byte) : (s.setFlags i f).tag = s.tag := rfl
@[simp] theorem State.setFlags_chan (s : State) (i : Nat) (f : Byte) : (s.setFlags i f).chan = s.chan := rfl
@[simp] theorem State.setFlags_len (s : State) (i : Nat) (f : Byte) : (s.setFlags i f).len = s.len := rfl
@[simp] theorem State.setFlags_buf (s : State) (i : Nat) (f : Byte) : (s.setFlags i f).buf = s.buf := rfl
@[simp] theorem State.setFlags_idx (s : State) (i : Nat) (f : Byte) : (s.setFlags i f).idx = s.idx := rfl
@[simp] theorem State.setFlags_echoLo (s : State) (i : Nat) (f : Byte) : (s.setFlags i f).echoLo = s.echoLo := rfl
@[simp] theorem State.setFlags_echoHi (s : State) (i : Nat) (f : Byte) : (s.setFlags i f).echoHi = s.echoHi := rfl
@[simp] theorem State.setFlags_xw (s : State) (i : Nat) (f : Byte) : (s.setFlags i f).xw = s.xw := rfl
@[simp] theorem State.setFlags_ports (s : State) (i : Nat) (f : Byte) : (s.setFlags i f).ports = s.ports.write i f := rfl
@[simp] theorem State.setFlags_pollCur (s : State) (i : Nat) (f : Byte) : (s.setFlags i f).pollCur = s.pollCur := rfl
@[simp] theorem State.setFlags_runMax (s : State) (i : Nat) (f : Byte) : (s.setFlags i f).runMax = s.runMax := rfl
@[simp] theorem State.setFlags_cache (s : State) (i : Nat) (f : Byte) : (s.setFlags i f).cache = s.cache := rfl
@[simp] theorem State.setFlags_alertPresent (s : State) (i : Nat) (f : Byte) : (s.setFlags i f).alertPresent = s.alertPresent := rfl
@[simp] theorem State.setFlags_ext (s : State) (i : Nat) (f : Byte) : (s.setFlags i f).ext = s.ext := rfl
@[simp] theorem State.setFlags_env (s : State) (i : Nat) (f : Byte) : (s.setFlags i f).env = s.env := rfl
@[simp] theorem State.setFlags_out (s : State) (i : Nat) (f : Byte) : (s.setFlags i f).out = s.out := rfl

/-! ### `State.emit` -/

@[simp] theorem State.emit_cfg (s : State) (e : OutEvent) : (s.emit e).cfg = s.cfg := rfl
@[simp] theorem State.emit_eng (s : State) (e : OutEvent) : (s.emit e).eng = s.eng := rfl
@[simp] theorem State.emit_crc (s : State) (e : OutEvent) : (s.emit e).crc = s.crc := rfl
@[simp] theorem State.emit_tag (s : State) (e : OutEvent) : (s.emit e).tag = s.tag := rfl
@[simp] theorem State.emit_chan (s : State) (e : OutEvent) : (s.emit e).chan = s.chan := rfl
@[simp] theorem State.emit_len (s : State) (e : OutEvent) : (s.emit e).len = s.len := rfl
@[simp] theorem State.emit_buf (s : State) (e : OutEvent) : (s.emit e).buf = s.buf := rfl
@[simp] theorem State.emit_idx (s : State) (e : OutEvent) : (s.emit e).idx = s.idx := rfl
@[simp] theorem State.emit_echoLo (s : State) (e : OutEvent) : (s.emit e).echoLo = s.echoLo := rfl
@[simp] theorem State.emit_echoHi (s : State) (e : OutEvent) : (s.emit e).echoHi = s.echoHi := rfl
@[simp] theorem State.emit_xw (s : State) (e : OutEvent) : (s.emit e).xw = s.xw := rfl
@[simp] theorem State.emit_ports (s : State) (e : OutEvent) : (s.emit e).ports = s.ports := rfl
@[simp] theorem State.emit_pollCur (s : State) (e : OutEvent) : (s.emit e).pollCur = s.pollCur := rfl
@[simp] theorem State.emit_runMax (s : State) (e : OutEvent) : (s.emit e).runMax = s.runMax := rfl
@[simp] theorem State.emit_cache (s : State) (e : OutEvent) : (s.emit e).cache = s.cache := rfl
@[simp] theorem State.emit_alertPresent (s : State) (e : OutEvent) : (s.emit e).alertPresent = s.alertPresent := rfl
@[simp] theorem State.emit_ext (s : State) (e : OutEvent) : (s.emit e).ext = s.ext := rfl
@[simp] theorem State.emit_env (s : State) (e : OutEvent) : (s.emit e).env = s.env := rfl
@[simp] theorem State.emit_out (s : State) (e : OutEvent) : (s.emit e).out = s.out ++ [e] := rfl

/-! ### `State.endTransaction` -/

@[simp] theorem State.endTransaction_cfg (s : State) : (s.endTransaction).cfg = s.cfg := rfl
@[simp] theorem State.endTransaction_eng (s : State) : (s.endTransaction).eng = .idle := rfl
@[simp] theorem State.endTransaction_crc (s : State) : (s.endTransaction).crc = none := rfl
@[simp] theorem State.endTransaction_tag (s : State) : (s.endTransaction).tag = none := rfl
@[simp] theorem State.endTransaction_chan (s : State) : (s.endTransaction).chan = none := rfl
@[simp] theorem State.endTransaction_len (s : State) : (s.endTransaction).len = none := rfl
@[simp] theorem State.endTransaction_buf (s : State) : (s.endTransaction).buf = [] := rfl
@[simp] theorem State.endTransaction_idx (s : State) : (s.endTransaction).idx = none := rfl
@[simp] theorem State.endTransaction_echoLo (s : State) : (s.endTransaction).echoLo = none := rfl
@[simp] theorem State.endTransaction_echoHi (s : State) : (s.endTransaction).echoHi = none := rfl
@[simp] theorem State.endTransaction_xw (s : State) : (s.endTransaction).xw = none := rfl
@[simp] theorem State.endTransaction_ports (s : State) : (s.endTransaction).ports = s.ports := rfl
@[simp] theorem State.endTransaction_pollCur (s : State) : (s.endTransaction).pollCur = s.pollCur := rfl
@[simp] theorem State.endTransaction_runMax (s : State) : (s.endTransaction).runMax = s.runMax := rfl
@[simp] theorem State.endTransaction_cache (s : State) : (s.endTransaction).cache = s.cache := rfl
@[simp] theorem State.endTransaction_alertPresent (s : State) : (s.endTransaction).alertPresent = s.alertPresent := rfl
@[simp] theorem State.endTransaction_ext (s : State) : (s.endTransaction).ext = s.ext := rfl
@[simp] theorem State.endTransaction_env (s : State) : (s.endTransaction).env = s.env := rfl
@[simp] theorem State.endTransaction_out (s : State) : (s.endTransaction).out = s.out := rfl

/-! ### `raise` -/

@[simp] theorem raise_cfg (s : State) (c : AbortCause) : (raise c s).cfg = s.cfg := rfl
@[simp] theorem raise_eng (s : State) (c : AbortCause) : (raise c s).eng = .idle := rfl
@[simp] theorem raise_crc (s : State) (c : AbortCause) : (raise c s).crc = none := rfl
@[simp] theorem raise_tag (s : State) (c : AbortCause) : (raise c s).tag = none := rfl
@[simp] theorem raise_chan (s : State) (c : AbortCause) : (raise c s).chan = none := rfl
@[simp] theorem raise_len (s : State) (c : AbortCause) : (raise c s).len = none := rfl
@[simp] theorem raise_buf (s : State) (c : AbortCause) : (raise c s).buf = [] := rfl
@[simp] theorem raise_idx (s : State) (c : AbortCause) : (raise c s).idx = none := rfl
@[simp] theorem raise_echoLo (s : State) (c : AbortCause) : (raise c s).echoLo = none := rfl
@[simp] theorem raise_echoHi (s : State) (c : AbortCause) : (raise c s).echoHi = none := rfl
@[simp] theorem raise_xw (s : State) (c : AbortCause) : (raise c s).xw = none := rfl
@[simp] theorem raise_ports (s : State) (c : AbortCause) : (raise c s).ports = s.ports := rfl
@[simp] theorem raise_pollCur (s : State) (c : AbortCause) : (raise c s).pollCur = s.pollCur := rfl
@[simp] theorem raise_runMax (s : State) (c : AbortCause) : (raise c s).runMax = s.runMax := rfl
@[simp] theorem raise_cache (s : State) (c : AbortCause) : (raise c s).cache = s.cache := rfl
@[simp] theorem raise_alertPresent (s : State) (c : AbortCause) : (raise c s).alertPresent = s.alertPresent := rfl
@[simp] theorem raise_ext (s : State) (c : AbortCause) : (raise c s).ext = s.ext := rfl
@[simp] theorem raise_env (s : State) (c : AbortCause) : (raise c s).env = s.env := rfl
@[simp] theorem raise_out (s : State) (c : AbortCause) : (raise c s).out = s.out ++ [.aborted c] := rfl

/-! ### `setExtBody` -/

@[simp] theorem setExtBody_cfg (s : State) (t : Byte) (body : ExtBody) : (setExtBody t body s).cfg = s.cfg := rfl
@[simp] theorem setExtBody_eng (s : State) (t : Byte) (body : ExtBody) : (setExtBody t body s).eng = s.eng := rfl
@[simp] theorem setExtBody_crc (s : State) (t : Byte) (body : ExtBody) : (setExtBody t body s).crc = s.crc := rfl
@[simp] theorem setExtBody_tag (s : State) (t : Byte) (body : ExtBody) : (setExtBody t body s).tag = s.tag := rfl
@[simp] theorem setExtBody_chan (s : State) (t : Byte) (body : ExtBody) : (setExtBody t body s).chan = s.chan := rfl
@[simp] theorem setExtBody_len (s : State) (t : Byte) (body : ExtBody) : (setExtBody t body s).len = s.len := rfl
@[simp] theorem setExtBody_buf (s : State) (t : Byte) (body : ExtBody) : (setExtBody t body s).buf = s.buf := rfl
@[simp] theorem setExtBody_idx (s : State) (t : Byte) (body : ExtBody) : (setExtBody t body s).idx = s.idx := rfl
@[simp] theorem setExtBody_echoLo (s : State) (t : Byte) (body : ExtBody) : (setExtBody t body s).echoLo = s.echoLo := rfl
@[simp] theorem setExtBody_echoHi (s : State) (t : Byte) (body : ExtBody) : (setExtBody t body s).echoHi = s.echoHi := rfl
@[simp] theorem setExtBody_xw (s : State) (t : Byte) (body : ExtBody) : (setExtBody t body s).xw = s.xw := rfl
@[simp] theorem setExtBody_ports (s : State) (t : Byte) (body : ExtBody) : (setExtBody t body s).ports = s.ports := rfl
@[simp] theorem setExtBody_pollCur (s : State) (t : Byte) (body : ExtBody) : (setExtBody t body s).pollCur = s.pollCur := rfl
@[simp] theorem setExtBody_runMax (s : State) (t : Byte) (body : ExtBody) : (setExtBody t body s).runMax = s.runMax := rfl
@[simp] theorem setExtBody_cache (s : State) (t : Byte) (body : ExtBody) : (setExtBody t body s).cache = s.cache := rfl
@[simp] theorem setExtBody_alertPresent (s : State) (t : Byte) (body : ExtBody) : (setExtBody t body s).alertPresent = s.alertPresent := rfl
@[simp] theorem setExtBody_ext (s : State) (t : Byte) (body : ExtBody) : (setExtBody t body s).ext = (t, body) :: s.ext.filter fun e => e.1 != t := rfl
@[simp] theorem setExtBody_env (s : State) (t : Byte) (body : ExtBody) : (setExtBody t body s).env = s.env := rfl
@[simp] theorem setExtBody_out (s : State) (t : Byte) (body : ExtBody) : (setExtBody t body s).out = s.out := rfl

/-! ### `advanceCursor` -/

@[simp] theorem advanceCursor_cfg (s : State) : (advanceCursor s).cfg = s.cfg := rfl
@[simp] theorem advanceCursor_eng (s : State) : (advanceCursor s).eng = s.eng := rfl
@[simp] theorem advanceCursor_crc (s : State) : (advanceCursor s).crc = s.crc := rfl
@[simp] theorem advanceCursor_tag (s : State) : (advanceCursor s).tag = s.tag := rfl
@[simp] theorem advanceCursor_chan (s : State) : (advanceCursor s).chan = s.chan := rfl
@[simp] theorem advanceCursor_len (s : State) : (advanceCursor s).len = s.len := rfl
@[simp] theorem advanceCursor_buf (s : State) : (advanceCursor s).buf = s.buf := rfl
@[simp] theorem advanceCursor_idx (s : State) : (advanceCursor s).idx = s.idx := rfl
@[simp] theorem advanceCursor_echoLo (s : State) : (advanceCursor s).echoLo = s.echoLo := rfl
@[simp] theorem advanceCursor_echoHi (s : State) : (advanceCursor s).echoHi = s.echoHi := rfl
@[simp] theorem advanceCursor_xw (s : State) : (advanceCursor s).xw = s.xw := rfl
@[simp] theorem advanceCursor_ports (s : State) : (advanceCursor s).ports = s.ports := rfl
@[simp] theorem advanceCursor_pollCur (s : State) : (advanceCursor s).pollCur = BitVec.ofNat 8 ((s.pollCur.toNat + 1) % s.cfg.nPort) := rfl
@[simp] theorem advanceCursor_runMax (s : State) : (advanceCursor s).runMax = s.runMax := rfl
@[simp] theorem advanceCursor_cache (s : State) : (advanceCursor s).cache = s.cache := rfl
@[simp] theorem advanceCursor_alertPresent (s : State) : (advanceCursor s).alertPresent = s.alertPresent := rfl
@[simp] theorem advanceCursor_ext (s : State) : (advanceCursor s).ext = s.ext := rfl
@[simp] theorem advanceCursor_env (s : State) : (advanceCursor s).env = s.env := rfl
@[simp] theorem advanceCursor_out (s : State) : (advanceCursor s).out = s.out := rfl

/-! ### `aggregateAlerts` -/

@[simp] theorem aggregateAlerts_cfg (s : State) : (aggregateAlerts s).cfg = s.cfg := rfl
@[simp] theorem aggregateAlerts_eng (s : State) : (aggregateAlerts s).eng = s.eng := rfl
@[simp] theorem aggregateAlerts_crc (s : State) : (aggregateAlerts s).crc = s.crc := rfl
@[simp] theorem aggregateAlerts_tag (s : State) : (aggregateAlerts s).tag = s.tag := rfl
@[simp] theorem aggregateAlerts_chan (s : State) : (aggregateAlerts s).chan = s.chan := rfl
@[simp] theorem aggregateAlerts_len (s : State) : (aggregateAlerts s).len = s.len := rfl
@[simp] theorem aggregateAlerts_buf (s : State) : (aggregateAlerts s).buf = s.buf := rfl
@[simp] theorem aggregateAlerts_idx (s : State) : (aggregateAlerts s).idx = s.idx := rfl
@[simp] theorem aggregateAlerts_echoLo (s : State) : (aggregateAlerts s).echoLo = s.echoLo := rfl
@[simp] theorem aggregateAlerts_echoHi (s : State) : (aggregateAlerts s).echoHi = s.echoHi := rfl
@[simp] theorem aggregateAlerts_xw (s : State) : (aggregateAlerts s).xw = s.xw := rfl
@[simp] theorem aggregateAlerts_ports (s : State) : (aggregateAlerts s).ports = s.ports := rfl
@[simp] theorem aggregateAlerts_pollCur (s : State) : (aggregateAlerts s).pollCur = s.pollCur := rfl
@[simp] theorem aggregateAlerts_runMax (s : State) : (aggregateAlerts s).runMax = s.runMax := rfl
@[simp] theorem aggregateAlerts_cache (s : State) : (aggregateAlerts s).cache = s.cache := rfl
@[simp] theorem aggregateAlerts_alertPresent (s : State) : (aggregateAlerts s).alertPresent = (s.cfg.condSearchEn && anyAlert s) := rfl
@[simp] theorem aggregateAlerts_ext (s : State) : (aggregateAlerts s).ext = s.ext := rfl
@[simp] theorem aggregateAlerts_env (s : State) : (aggregateAlerts s).env = s.env := rfl
@[simp] theorem aggregateAlerts_out (s : State) : (aggregateAlerts s).out = s.out := rfl

/-! ### `cycleStart` -/

@[simp] theorem cycleStart_cfg (s : State) : (cycleStart s).cfg = s.cfg := by
  unfold cycleStart; split <;> rfl
@[simp] theorem cycleStart_eng (s : State) : (cycleStart s).eng = s.eng := by
  unfold cycleStart; split <;> rfl
@[simp] theorem cycleStart_crc (s : State) : (cycleStart s).crc = s.crc := by
  unfold cycleStart; split <;> rfl
@[simp] theorem cycleStart_tag (s : State) : (cycleStart s).tag = s.tag := by
  unfold cycleStart; split <;> rfl
@[simp] theorem cycleStart_chan (s : State) : (cycleStart s).chan = s.chan := by
  unfold cycleStart; split <;> rfl
@[simp] theorem cycleStart_len (s : State) : (cycleStart s).len = s.len := by
  unfold cycleStart; split <;> rfl
@[simp] theorem cycleStart_buf (s : State) : (cycleStart s).buf = s.buf := by
  unfold cycleStart; split <;> rfl
@[simp] theorem cycleStart_idx (s : State) : (cycleStart s).idx = s.idx := by
  unfold cycleStart; split <;> rfl
@[simp] theorem cycleStart_echoLo (s : State) : (cycleStart s).echoLo = s.echoLo := by
  unfold cycleStart; split <;> rfl
@[simp] theorem cycleStart_echoHi (s : State) : (cycleStart s).echoHi = s.echoHi := by
  unfold cycleStart; split <;> rfl
@[simp] theorem cycleStart_xw (s : State) : (cycleStart s).xw = s.xw := by
  unfold cycleStart; split <;> rfl
@[simp] theorem cycleStart_ports (s : State) : (cycleStart s).ports = s.ports := by
  unfold cycleStart; split <;> rfl
@[simp] theorem cycleStart_pollCur (s : State) : (cycleStart s).pollCur = s.pollCur := by
  unfold cycleStart; split <;> rfl
@[simp] theorem cycleStart_runMax (s : State) : (cycleStart s).runMax = if s.pollCur = 0 then 0 else s.runMax := by
  unfold cycleStart; split <;> rfl
@[simp] theorem cycleStart_cache (s : State) : (cycleStart s).cache = if s.pollCur = 0 then s.runMax else s.cache := by
  unfold cycleStart; split <;> rfl
@[simp] theorem cycleStart_alertPresent (s : State) : (cycleStart s).alertPresent = s.alertPresent := by
  unfold cycleStart; split <;> rfl
@[simp] theorem cycleStart_ext (s : State) : (cycleStart s).ext = s.ext := by
  unfold cycleStart; split <;> rfl
@[simp] theorem cycleStart_env (s : State) : (cycleStart s).env = s.env := by
  unfold cycleStart; split <;> rfl
@[simp] theorem cycleStart_out (s : State) : (cycleStart s).out = s.out := by
  unfold cycleStart; split <;> rfl

/-! ### `noteMaximum` -/

@[simp] theorem noteMaximum_cfg (s : State) : (noteMaximum s).cfg = s.cfg := by
  unfold noteMaximum; split <;> rfl
@[simp] theorem noteMaximum_eng (s : State) : (noteMaximum s).eng = s.eng := by
  unfold noteMaximum; split <;> rfl
@[simp] theorem noteMaximum_crc (s : State) : (noteMaximum s).crc = s.crc := by
  unfold noteMaximum; split <;> rfl
@[simp] theorem noteMaximum_tag (s : State) : (noteMaximum s).tag = s.tag := by
  unfold noteMaximum; split <;> rfl
@[simp] theorem noteMaximum_chan (s : State) : (noteMaximum s).chan = s.chan := by
  unfold noteMaximum; split <;> rfl
@[simp] theorem noteMaximum_len (s : State) : (noteMaximum s).len = s.len := by
  unfold noteMaximum; split <;> rfl
@[simp] theorem noteMaximum_buf (s : State) : (noteMaximum s).buf = s.buf := by
  unfold noteMaximum; split <;> rfl
@[simp] theorem noteMaximum_idx (s : State) : (noteMaximum s).idx = s.idx := by
  unfold noteMaximum; split <;> rfl
@[simp] theorem noteMaximum_echoLo (s : State) : (noteMaximum s).echoLo = s.echoLo := by
  unfold noteMaximum; split <;> rfl
@[simp] theorem noteMaximum_echoHi (s : State) : (noteMaximum s).echoHi = s.echoHi := by
  unfold noteMaximum; split <;> rfl
@[simp] theorem noteMaximum_xw (s : State) : (noteMaximum s).xw = s.xw := by
  unfold noteMaximum; split <;> rfl
@[simp] theorem noteMaximum_ports (s : State) : (noteMaximum s).ports = s.ports := by
  unfold noteMaximum; split <;> rfl
@[simp] theorem noteMaximum_pollCur (s : State) : (noteMaximum s).pollCur = s.pollCur := by
  unfold noteMaximum; split <;> rfl
@[simp] theorem noteMaximum_runMax (s : State) : (noteMaximum s).runMax = if pending (s.flags s.pollCur.toNat) then s.pollCur + 1 else s.runMax := by
  unfold noteMaximum; split <;> rfl
@[simp] theorem noteMaximum_cache (s : State) : (noteMaximum s).cache = s.cache := by
  unfold noteMaximum; split <;> rfl
@[simp] theorem noteMaximum_alertPresent (s : State) : (noteMaximum s).alertPresent = s.alertPresent := by
  unfold noteMaximum; split <;> rfl
@[simp] theorem noteMaximum_ext (s : State) : (noteMaximum s).ext = s.ext := by
  unfold noteMaximum; split <;> rfl
@[simp] theorem noteMaximum_env (s : State) : (noteMaximum s).env = s.env := by
  unfold noteMaximum; split <;> rfl
@[simp] theorem noteMaximum_out (s : State) : (noteMaximum s).out = s.out := by
  unfold noteMaximum; split <;> rfl

end Sys2Proof.Machine
end

