-- ==== Sys2Proof/Laws/Ops.lean ====
section
/-! SUPPORT. What each shared operation can do, said once: when it answers a next state, and when it stops. -/

namespace Sys2Proof.Machine

variable {α : Type} {s t : State}

/-! ### Sequencing -/

@[simp] theorem need_some (r : TxnReg) (a : α) (k : α → Result State) : need r (some a) k = k a := rfl

@[simp] theorem need_none (r : TxnReg) (k : α → Result State) : need r none k = .fault (.noValue r) := rfl

/-- `need` goes on exactly when the register holds a value. -/
theorem need_eq_next {r : TxnReg} {v : Option α} {k : α → Result State} :
    need r v k = .next t ↔ ∃ a, v = some a ∧ k a = .next t := by
  cases v <;> simp

@[simp] theorem orFault_ok (a : α) (k : α → Result State) : orFault (.ok a) k = k a := rfl

@[simp] theorem orFault_error (f : Fault) (k : α → Result State) : orFault (.error f) k = .fault f := rfl

/-- `orFault` goes on exactly when there is a value. -/
theorem orFault_eq_next {r : Except Fault α} {k : α → Result State} :
    orFault r k = .next t ↔ ∃ a, r = .ok a ∧ k a = .next t := by
  cases r <;> simp

@[simp] theorem orAbort_ok (a : α) (s : State) (k : α → Result State) : orAbort (.ok a) s k = k a := rfl

@[simp] theorem orAbort_abort (c : AbortCause) (s : State) (k : α → Result State) :
    orAbort (.abort c) s k = .next (raise c s) := rfl

@[simp] theorem orAbort_fault (f : Fault) (s : State) (k : α → Result State) : orAbort (.fault f) s k = .fault f := rfl

/-- `orAbort` answers a next state by going on with the value or by taking the abort. -/
theorem orAbort_eq_next {r : Cap α} {k : α → Result State} :
    orAbort r s k = .next t ↔ (∃ a, r = .ok a ∧ k a = .next t) ∨ ∃ c, r = .abort c ∧ raise c s = t := by
  cases r <;> simp

/-- `foldByte` goes on with the folded `CRC`. -/
theorem foldByte_eq_next {b : Byte} {k : State → Result State} :
    foldByte b s k = .next t ↔
      ∃ c, s.crc = some c ∧ k { s with crc := some (accumulate s.cfg.crcAlgo c b) } = .next t := by
  simp [foldByte, need_eq_next]

/-- `readBuf` goes on with a written element below `LEN`. -/
theorem readBuf_eq_next {i : Nat} {k : Byte → Result State} :
    readBuf s i k = .next t ↔ ∃ n b, s.len = some n ∧ i < n.toNat ∧ s.buf[i]? = some b ∧ k b = .next t := by
  simp only [readBuf, need_eq_next]
  constructor
  · rintro ⟨n, hn, h⟩
    split at h
    · split at h
      · rename_i hlt _ b hb
        exact ⟨n, b, hn, hlt, hb, h⟩
      · cases h
    · cases h
  · rintro ⟨n, b, hn, hlt, hb, h⟩
    exact ⟨n, hn, by simp [hlt, hb, h]⟩

/-- `writeBuf` goes on with the byte added at the next index of the buffer. -/
theorem writeBuf_eq_next {i : Nat} {b : Byte} {k : State → Result State} :
    writeBuf i b s k = .next t ↔
      i = s.buf.length ∧ i < s.cfg.maxPayload ∧ k { s with buf := s.buf ++ [b] } = .next t := by
  unfold writeBuf
  split
  · rename_i h
    exact ⟨fun hk => ⟨h.1, h.2, hk⟩, fun hk => hk.2.2⟩
  · rename_i h
    exact ⟨fun hk => (by cases hk), fun hk => absurd ⟨hk.1, hk.2.1⟩ h⟩

/-- `fillBuf` goes on with the payload in the buffer. -/
theorem fillBuf_eq_next {bytes : List Byte} {k : State → Result State} :
    fillBuf bytes s k = .next t ↔ bytes.length ≤ s.cfg.maxPayload ∧ k { s with buf := bytes } = .next t := by
  simp only [fillBuf]
  split <;> simp_all

/-! ### The CRC exchange -/

/-- `trailerStep` transmits one trailer byte and moves `IDX` on; after the second it goes on to `after`. -/
theorem trailerStep_eq_next {after : State → State} :
    trailerStep after s = .next t ↔
      ∃ c i, s.crc = some c ∧ s.idx = some i ∧
        t = if i + 1 = 2 then after { s.emit (.tx (trailerByte c i)) with idx := some 0 }
          else { s.emit (.tx (trailerByte c i)) with idx := some (i + 1) } := by
  simp only [trailerStep, need_eq_next]
  constructor
  · rintro ⟨c, hc, i, hi, h⟩
    refine ⟨c, i, hc, hi, ?_⟩
    split at h <;> simp_all
  · rintro ⟨c, i, hc, hi, rfl⟩
    exact ⟨c, hc, i, hi, by split <;> rfl⟩

/-- `echoStep` stores the low echo byte, or compares the whole echo once and commits or aborts. -/
theorem echoStep_eq_next {commit : State → Result State} {e : Byte} :
    echoStep commit e s = .next t ↔
      ∃ i, s.idx = some i ∧
        ((i = 0 ∧ t = { s with echoLo := some e, idx := some 1 }) ∨
          i ≠ 0 ∧ ∃ lo c, s.echoLo = some lo ∧ s.crc = some c ∧
            ((echoWord e lo ≠ trailer c ∧ t = raise .crcMismatch { s with echoHi := some e }) ∨
              echoWord e lo = trailer c ∧ commit { s with echoHi := some e } = .next t)) := by
  simp only [echoStep, need_eq_next]
  constructor
  · rintro ⟨i, hi, h⟩
    refine ⟨i, hi, ?_⟩
    split at h
    · rename_i h0
      exact .inl ⟨h0, by simpa using h.symm⟩
    · rename_i h0
      simp only [need_some, need_eq_next] at h
      obtain ⟨lo, hlo, c, hc, h⟩ := h
      refine .inr ⟨h0, lo, c, hlo, hc, ?_⟩
      split at h
      · rename_i he
        exact .inl ⟨he, by simpa using h.symm⟩
      · rename_i he
        exact .inr ⟨by simpa using he, h⟩
  · rintro ⟨i, hi, ⟨h0, rfl⟩ | ⟨h0, lo, c, hlo, hc, ⟨he, rfl⟩ | ⟨he, h⟩⟩⟩
    · exact ⟨i, hi, by simp [h0]⟩
    · exact ⟨i, hi, by rw [if_neg h0]; simp only [hlo, hc, need_some]; rw [if_pos he]⟩
    · exact ⟨i, hi, by rw [if_neg h0]; simp only [hlo, hc, need_some]; rw [if_neg (by simpa using he), ← hlo, ← hc]; exact h⟩

/-! ### The port space -/

/-- `readPort` gives the flags of a port that exists. -/
theorem readPort_eq_ok {i : Nat} {f : Byte} : readPort s i = .ok f ↔ i < s.cfg.nPort ∧ s.flags i = f := by
  unfold readPort
  split <;> simp_all

/-- The flags written to a port are read back. -/
theorem flags_setFlags_same {i : Nat} {f : Byte} (h : s.ports.wf = true) : (s.setFlags i f).flags i = f :=
  Memory.read_write_same h

/-- Writing a port leaves every other port alone. -/
theorem flags_setFlags_other {i j : Nat} {f : Byte} (h : j ≠ i) : (s.setFlags i f).flags j = s.flags j :=
  Memory.read_write_other h

@[simp] theorem flags_emit (s : State) (e : OutEvent) (j : Nat) : (s.emit e).flags j = s.flags j := rfl

@[simp] theorem flags_endTransaction (s : State) (j : Nat) : s.endTransaction.flags j = s.flags j := rfl

@[simp] theorem flags_raise (s : State) (c : AbortCause) (j : Nat) : (raise c s).flags j = s.flags j := rfl

/-- Writing a port keeps the port space in order. -/
theorem portsOk_setFlags {i : Nat} {f : Byte} (h : s.portsOk = true) (hi : i < s.cfg.nPort) :
    (s.setFlags i f).portsOk = true := by
  simp only [State.portsOk, Bool.and_eq_true, List.all_eq_true, decide_eq_true_eq] at h ⊢
  refine ⟨Memory.wf_write h.1, fun cell hc => ?_⟩
  rcases Memory.mem_write hc with rfl | hc
  · exact hi
  · exact h.2 cell hc

/-- `port_set` writes at most the one port, and only if the mode does not encode the value. -/
theorem portSet_eq_ok {i : Nat} {v : Bool} :
    portSet i v s = .ok t ↔
      i < s.cfg.nPort ∧ t = if lvl (s.flags i) = v then s else s.setFlags i (commandedFlags v (s.flags i)) := by
  unfold portSet readPort
  by_cases hi : i < s.cfg.nPort
  · by_cases hv : lvl (s.flags i) = v <;> simp [hi, hv, eq_comm]
  · simp [hi]

/-- The masked write writes the one port. -/
theorem portMaskedWrite_eq_ok {i : Nat} {v m : Byte} :
    portMaskedWrite i v m s = .ok t ↔ i < s.cfg.nPort ∧ t = s.setFlags i (maskedFlags v m (s.flags i)) := by
  unfold portMaskedWrite readPort
  by_cases hi : i < s.cfg.nPort <;> simp [hi, eq_comm]

/-- `port_check` writes at most the one port and reports the change. -/
theorem portCheck_eq_ok {i : Nat} {v : Bool} :
    portCheck i v s = .ok t ↔
      i < s.cfg.nPort ∧
        t = if v = flagCurrent (s.flags i) then s
          else (s.setFlags i (changedFlags v (s.flags i))).emit (.diag (.pinChange i)) := by
  unfold portCheck readPort
  by_cases hi : i < s.cfg.nPort
  · by_cases hv : v = flagCurrent (s.flags i) <;> simp [hi, hv, eq_comm]
  · simp [hi]

/-- The port's `read_done` writes at most the one port of its channel. -/
theorem portReadDone_eq_ok {c : Byte} :
    portReadDone c s = .ok t ↔
      (c = 0 ∧ t = s) ∨
        c ≠ 0 ∧ portOf c < s.cfg.nPort ∧ t = s.setFlags (portOf c) (deliveredFlags (s.flags (portOf c))) := by
  unfold portReadDone readPort
  by_cases hc : c = 0
  · simp [hc, eq_comm]
  · have hc' : ¬c = 0#8 := hc
    by_cases hi : portOf c < s.cfg.nPort
    · simp [hc', hi, @eq_comm _ t]
    · simp [hc', hi]

/-- `read_done` acts on the state only for the port, and there as the port's own. -/
theorem readDone_eq_ok {y c : Byte} :
    readDone y c s = .ok t ↔
      (lookup s.cfg y = some .port ∧ portReadDone c s = .ok t) ∨ lookup s.cfg y ≠ some .port ∧ t = s := by
  unfold readDone
  split
  · rename_i h
    simp [h]
  · rename_i h
    have h' : lookup s.cfg y ≠ some .port := h
    constructor
    · rintro hst
      exact .inr ⟨h', by cases hst; rfl⟩
    · rintro (⟨hp, -⟩ | ⟨-, rfl⟩)
      · exact absurd hp h'
      · rfl

/-- A commit on the ports leaves everything but the port space alone. -/
theorem readDone_frame {y c : Byte} (h : readDone y c s = .ok t) :
    t = { s with ports := t.ports } ∧ (∀ j, j ≠ portOf c → t.flags j = s.flags j) := by
  rcases readDone_eq_ok.mp h with ⟨-, h⟩ | ⟨-, rfl⟩
  · rcases portReadDone_eq_ok.mp h with ⟨-, rfl⟩ | ⟨-, -, rfl⟩
    · exact ⟨rfl, fun _ _ => rfl⟩
    · exact ⟨rfl, fun j hj => flags_setFlags_other hj⟩
  · exact ⟨rfl, fun _ _ => rfl⟩

/-! ### The words of the trailer and the echo -/

/-- An echo assembled from the bytes of a word is that word. -/
theorem echoWord_bytes (w : Word) : echoWord (highByte w) (lowByte w) = w := by
  apply BitVec.eq_of_getLsbD_eq
  intro i hi
  simp only [echoWord, highByte, lowByte, BitVec.getLsbD_or, BitVec.getLsbD_shiftLeft, BitVec.getLsbD_setWidth,
    BitVec.getLsbD_ushiftRight]
  by_cases h : i < 8
  · simp [h, hi]
  · have h8 : 8 + (i - 8) = i := by omega
    have h9 : i - 8 < 8 := by omega
    have h10 : i - 8 < 16 := by omega
    simp [h, hi, h8, h9, h10]

/-- The bytes of an assembled echo are the two received. -/
theorem bytes_echoWord (hi lo : Byte) : lowByte (echoWord hi lo) = lo ∧ highByte (echoWord hi lo) = hi := by
  constructor <;>
  · apply BitVec.eq_of_getLsbD_eq
    intro i h
    have h16 : i < 16 := by omega
    simp [echoWord, highByte, lowByte, h, h16]
    try (intro; omega)

end Sys2Proof.Machine
end

