-- ==== Sys2Proof/Laws/Engine.lean ====
section
/-! SUPPORT. What the engine can do at each position, said once: if the step answers next t, then t is one of these
states. -/

namespace Sys2Proof.Machine

variable {s t : State}

/-- The state after a byte is folded. -/
abbrev State.folded (s : State) (b : Byte) (c : Word) : State := { s with crc := some (accumulate s.cfg.crcAlgo c b) }

/-- Function-code reception (R137 to R140). -/
theorem dispatchStep_eq {b : Byte} :
    dispatchStep b s =
      let s' := { s with crc := some (accumulate s.cfg.crcAlgo 0 b) }
      if b = 0xF2 then .next { s' with eng := .rdTag }
      else if b = 0xF4 then .next { s' with eng := .wrTag }
      else .next (raise .unknownFunction (s'.emit (.diag (.unknownFunction b)))) := rfl

/-- `RD_TAG` (R151). -/
theorem rdTagStep_eq_next {y : Byte} (h : rdTagStep y s = .next t) :
    ∃ c, s.crc = some c ∧
      ((lookup s.cfg y = none ∧
          t = raise .unknownType ({ s.folded y c with tag := some y }.emit (.diag (.unknownType y)))) ∨
        ((lookup s.cfg y).isSome ∧ t = { s.folded y c with tag := some y, eng := .rdChan })) := by
  obtain ⟨c, hc, h⟩ := foldByte_eq_next.mp h
  refine ⟨c, hc, ?_⟩
  dsimp only at h
  split at h
  · rename_i hl
    cases h
    exact .inl ⟨hl, rfl⟩
  · rename_i hl
    cases h
    exact .inr ⟨by rw [hl]; rfl, rfl⟩

/-- `RD_CHAN` (R152, R153). -/
theorem rdChanStep_eq_next {b : Byte} (h : rdChanStep b s = .next t) :
    ∃ c y, s.crc = some c ∧ s.tag = some y ∧
      let s' := { s.folded b c with chan := some b }
      (∃ cause, t = raise cause s' ∧
          (readLength s' y b = .abort cause ∨ ∃ n, readLength s' y b = .ok n ∧ checkLength s.cfg n = some cause)) ∨
        ∃ n, readLength s' y b = .ok n ∧ checkLength s.cfg n = none ∧
          t = { s' with len := some (BitVec.ofNat 8 n), eng := .rdLenTx } := by
  obtain ⟨c, hc, h⟩ := foldByte_eq_next.mp h
  obtain ⟨y, hy, h⟩ := need_eq_next.mp h
  refine ⟨c, y, hc, hy, ?_⟩
  rcases orAbort_eq_next.mp h with ⟨n, hn, h⟩ | ⟨cause, hcause, rfl⟩
  · dsimp only at h
    split at h
    · rename_i cause hcheck
      cases h
      exact .inl ⟨cause, rfl, .inr ⟨n, hn, hcheck⟩⟩
    · rename_i hcheck
      cases h
      exact .inr ⟨n, hn, hcheck, rfl⟩
  · exact .inl ⟨cause, rfl, .inl hcause⟩

/-- `RD_LEN_TX` (R154). -/
theorem rdLenStep_eq_next (h : rdLenStep s = .next t) :
    ∃ n c y k, s.len = some n ∧ s.crc = some c ∧ s.tag = some y ∧ s.chan = some k ∧
      let s' := (s.emit (.tx n)).folded n c
      (∃ cause, readPayload s' y k = .abort cause ∧ t = raise cause s') ∨
        ∃ bytes, readPayload s' y k = .ok bytes ∧ bytes.length ≤ s.cfg.maxPayload ∧
          t = { s' with buf := bytes, idx := some 0, eng := .rdDataTx } := by
  obtain ⟨n, hn, h⟩ := need_eq_next.mp h
  obtain ⟨c, hc, h⟩ := foldByte_eq_next.mp h
  obtain ⟨y, hy, h⟩ := need_eq_next.mp h
  obtain ⟨k, hk, h⟩ := need_eq_next.mp h
  refine ⟨n, c, y, k, hn, hc, hy, hk, ?_⟩
  rcases orAbort_eq_next.mp h with ⟨bytes, hb, h⟩ | ⟨cause, hcause, rfl⟩
  · obtain ⟨hlen, h⟩ := fillBuf_eq_next.mp h
    cases h
    exact .inr ⟨bytes, hb, hlen, rfl⟩
  · exact .inl ⟨cause, hcause, rfl⟩

/-- `RD_DATA_TX` (R156). -/
theorem rdDataStep_eq_next (h : rdDataStep s = .next t) :
    ∃ i n b c, s.idx = some i ∧ s.len = some n ∧ i.toNat < n.toNat ∧ s.buf[i.toNat]? = some b ∧ s.crc = some c ∧
      let s' := (s.emit (.tx b)).folded b c
      t = if i + 1 = n then { s' with idx := some 0, eng := .rdCrcTx } else { s' with idx := some (i + 1) } := by
  obtain ⟨i, hi, h⟩ := need_eq_next.mp h
  obtain ⟨n, b, hn, hlt, hb, h⟩ := readBuf_eq_next.mp h
  obtain ⟨n', hn', h⟩ := need_eq_next.mp h
  obtain ⟨c, hc, h⟩ := foldByte_eq_next.mp h
  obtain rfl : n = n' := by rw [hn] at hn'; exact Option.some.inj hn'
  refine ⟨i, n, b, c, hi, hn, hlt, hb, hc, ?_⟩
  dsimp only at h ⊢
  split at h <;> rename_i hin <;> cases h
  · rw [if_pos hin]
  · rw [if_neg hin]

/-- The completion of a read (R160). -/
theorem readCommit_eq_next (h : readCommit s = .next t) :
    ∃ y c u, s.tag = some y ∧ s.chan = some c ∧ readDone y c s = .ok u ∧ t = (u.emit (.readDone y c)).endTransaction := by
  obtain ⟨y, hy, h⟩ := need_eq_next.mp h
  obtain ⟨c, hc, h⟩ := need_eq_next.mp h
  obtain ⟨u, hu, h⟩ := orFault_eq_next.mp h
  cases h
  exact ⟨y, c, u, hy, hc, hu, rfl⟩

/-- The next operation of an external write (R142). -/
theorem xwNext_eq {y : Byte} {got : List Byte} :
    xwNext y got s =
      match extOp (extBody s y) got with
      | .receive => .next { s with eng := .xw, xw := some (.receive got) }
      | .exchange => .next { s with eng := .xw, xw := some .trailer, idx := some 0 }
      | .abort cause => .next (raise cause s) := rfl

/-- `xwNext` always answers a next state. -/
theorem xwNext_eq_next {y : Byte} {got : List Byte} (h : xwNext y got s = .next t) :
    t = { s with eng := .xw, xw := some (.receive got) } ∨
      t = { s with eng := .xw, xw := some .trailer, idx := some 0 } ∨ ∃ cause, t = raise cause s := by
  rw [xwNext_eq] at h
  split at h <;> cases h
  · exact .inl rfl
  · exact .inr (.inl rfl)
  · exact .inr (.inr ⟨_, rfl⟩)

/-- `WR_TAG` (R171). -/
theorem wrTagStep_eq_next {y : Byte} (h : wrTagStep y s = .next t) :
    ∃ c, s.crc = some c ∧
      let s' := { s.folded y c with tag := some y }
      (lookup s.cfg y = none ∧ t = raise .unknownType (s'.emit (.diag (.unknownType y)))) ∨
        (lookup s.cfg y = some .dummy ∧ t = raise .noCapability s') ∨
        (lookup s.cfg y = some .port ∧ t = { s' with eng := .pwChan }) ∨
        (lookup s.cfg y = some .external ∧ xwNext y [] s' = .next t) := by
  obtain ⟨c, hc, h⟩ := foldByte_eq_next.mp h
  refine ⟨c, hc, ?_⟩
  dsimp only at h
  split at h
  · rename_i hl; cases h; exact .inl ⟨hl, rfl⟩
  · rename_i hl; cases h; exact .inr (.inl ⟨hl, rfl⟩)
  · rename_i hl; cases h; exact .inr (.inr (.inl ⟨hl, rfl⟩))
  · rename_i hl; exact .inr (.inr (.inr ⟨hl, h⟩))

/-- `PW_CHAN` (R174). -/
theorem pwChanStep_eq_next {b : Byte} (h : pwChanStep b s = .next t) :
    ∃ c, s.crc = some c ∧
      let s' := { s.folded b c with chan := some b }
      t = if namesPort s.cfg b then { s' with eng := .pwLen } else raise .badChannel s' := by
  obtain ⟨c, hc, h⟩ := foldByte_eq_next.mp h
  refine ⟨c, hc, ?_⟩
  dsimp only at h ⊢
  split at h <;> rename_i hp <;> cases h
  · rw [if_pos hp]
  · rw [if_neg hp]

/-- `PW_LEN` (R175). -/
theorem pwLenStep_eq_next {n : Byte} (h : pwLenStep n s = .next t) :
    ∃ c, s.crc = some c ∧
      let s' := { s.folded n c with len := some n }
      t = if portWriteLenOk n then { s' with idx := some 0, eng := .pwData } else raise .badLength s' := by
  obtain ⟨c, hc, h⟩ := foldByte_eq_next.mp h
  refine ⟨c, hc, ?_⟩
  dsimp only at h ⊢
  split at h <;> rename_i hp <;> cases h
  · rw [if_pos hp]
  · rw [if_neg hp]

/-- `PW_DATA` (R176). -/
theorem pwDataStep_eq_next {d : Byte} (h : pwDataStep d s = .next t) :
    ∃ c i n, s.crc = some c ∧ s.idx = some i ∧ s.len = some n ∧ i.toNat = s.buf.length ∧ i.toNat < s.cfg.maxPayload ∧
      let s' := { s.folded d c with buf := s.buf ++ [d] }
      t = if i + 1 = n then { s' with idx := some 0, eng := .pwCrcTx } else { s' with idx := some (i + 1) } := by
  obtain ⟨c, hc, h⟩ := foldByte_eq_next.mp h
  obtain ⟨i, hi, h⟩ := need_eq_next.mp h
  obtain ⟨n, hn, h⟩ := need_eq_next.mp h
  obtain ⟨hlen, hmax, h⟩ := writeBuf_eq_next.mp h
  refine ⟨c, i, n, hc, hi, hn, hlen, hmax, ?_⟩
  dsimp only at h ⊢
  split at h <;> rename_i hin <;> cases h
  · rw [if_pos hin]
  · rw [if_neg hin]

/-- The commit of a port write (R179, R180). -/
theorem portCommit_eq_next (h : portCommit s = .next t) :
    ∃ y c n v u, s.tag = some y ∧ s.chan = some c ∧ s.len = some n ∧ s.buf[0]? = some v ∧
      ((n = 1 ∧ portSet (portOf c) (logicalValue v) s = .ok u) ∨
        n ≠ 1 ∧ ∃ m, s.buf[1]? = some m ∧ portMaskedWrite (portOf c) v m s = .ok u) ∧
      t = (u.emit (.writeDone y)).endTransaction := by
  obtain ⟨y, hy, h⟩ := need_eq_next.mp h
  obtain ⟨c, hc, h⟩ := need_eq_next.mp h
  obtain ⟨n, hn, h⟩ := need_eq_next.mp h
  obtain ⟨n', v, hn', -, hv, h⟩ := readBuf_eq_next.mp h
  split at h
  · rename_i h1
    obtain ⟨u, hu, h⟩ := orFault_eq_next.mp h
    cases h
    exact ⟨y, c, n, v, u, hy, hc, hn, hv, .inl ⟨h1, hu⟩, rfl⟩
  · rename_i h1
    obtain ⟨n'', m, -, -, hm, h⟩ := readBuf_eq_next.mp h
    obtain ⟨u, hu, h⟩ := orFault_eq_next.mp h
    cases h
    exact ⟨y, c, n, v, u, hy, hc, hn, hv, .inr ⟨h1, m, hm, hu⟩, rfl⟩

/-- The commit of an external write (R61). -/
theorem xwCommit_eq_next (h : xwCommit s = .next t) :
    ∃ y, s.tag = some y ∧ t = (s.emit (.writeDone y)).endTransaction := by
  obtain ⟨y, hy, h⟩ := need_eq_next.mp h
  cases h
  exact ⟨y, hy, rfl⟩

/-- A byte received at `XW`. -/
theorem xwReceiveStep_eq_next {b : Byte} (h : xwReceiveStep b s = .next t) :
    (∃ got c y, s.xw = some (.receive got) ∧ s.crc = some c ∧ s.tag = some y ∧
        xwNext y (got ++ [b]) (s.folded b c) = .next t) ∨
      s.xw = some .echo ∧ echoStep xwCommit b s = .next t := by
  obtain ⟨phase, hp, h⟩ := need_eq_next.mp h
  split at h
  · obtain ⟨c, hc, h⟩ := foldByte_eq_next.mp h
    obtain ⟨y, hy, h⟩ := need_eq_next.mp h
    exact .inl ⟨_, c, y, hp, hc, hy, h⟩
  · cases h
  · exact .inr ⟨hp, h⟩

/-- A byte transmitted at `XW`. -/
theorem xwTransmitStep_eq_next (h : xwTransmitStep s = .next t) :
    s.xw = some .trailer ∧ trailerStep (fun s => { s with xw := some .echo }) s = .next t := by
  obtain ⟨phase, hp, h⟩ := need_eq_next.mp h
  split at h
  · exact ⟨hp, h⟩
  · cases h

/-! ### The mainloop and single events -/

/-- One iteration: the check of the port at the cursor, then the running maximum, the cursor and the alert flag. -/
theorem mainloopIteration_eq_next {v : Bool} :
    mainloopIteration v s = .next t ↔
      ∃ u, portCheck s.pollCur.toNat v (cycleStart s) = .ok u ∧
        t = aggregateAlerts (advanceCursor (noteMaximum u)) := by
  unfold mainloopIteration
  rw [orFault_eq_next, cycleStart_pollCur]
  simp only [Host.Outcome.next.injEq, eq_comm]

/-- An event of the block at rest happens only at `IDLE`. -/
theorem atIdle_eq_next {r : Result State} : atIdle s r = .next t ↔ s.eng = .idle ∧ r = .next t := by
  unfold atIdle
  split <;> simp_all

/-- An EXTERNAL body moves on only for an EXTERNAL tag. -/
theorem extStep_eq_next {y : Byte} {body : ExtBody} :
    extStep y body s = .next t ↔ lookup s.cfg y = some .external ∧ t = setExtBody y body s := by
  unfold extStep
  split <;> simp_all [eq_comm]

/-- A result with another script is a next state exactly when the result is. -/
theorem withEnv_eq_next {env : List EnvEvent} {r : Result State} :
    withEnv env r = .next t ↔ ∃ u, r = .next u ∧ t = { u with env := env } := by
  cases r <;> simp [withEnv, eq_comm]

/-- A micro step waits, or takes the next event of the script. -/
theorem microStep_eq_next :
    microStep s = .next t ↔
      (s.env = [] ∧ t = s) ∨ ∃ e es u, s.env = e :: es ∧ envStep e s = .next u ∧ t = { u with env := es } := by
  unfold microStep
  split
  · rename_i h
    simp [h, eq_comm]
  · rename_i e es h
    simp [h, withEnv_eq_next]

/-! ### Serving a script -/

@[simp] theorem serve_nil (s : State) : serve [] s = .next { s with env := [] } := rfl

/-- Serving goes on after an event that leaves the transaction in progress. -/
theorem serve_cons_busy {e : EnvEvent} {es : List EnvEvent} (h : envStep e s = .next t) (ht : t.eng ≠ .idle) :
    serve (e :: es) s = serve es t := by
  simp [serve, h, ht]

/-- Serving ends where the transaction ends. -/
theorem serve_cons_idle {e : EnvEvent} {es : List EnvEvent} (h : envStep e s = .next t) (ht : t.eng = .idle) :
    serve (e :: es) s = .next { t with env := es } := by
  simp [serve, h, ht]

/-- Serving stops where an event faults. -/
theorem serve_cons_fault {e : EnvEvent} {es : List EnvEvent} {f : Fault} (h : envStep e s = .fault f) :
    serve (e :: es) s = .fault f := by
  simp [serve, h]

/-- A property that every bus answer keeps while a transaction is in progress holds of the state a run answers: the
induction over a script, done once. `P` is kept inside the transaction; the last event may end it. -/
theorem serve_induction {P : State → Prop} {Q : State → Prop}
    (busy : ∀ e s t, P s → envStep e s = .next t → t.eng ≠ .idle → P t)
    (ends : ∀ e s t, P s → envStep e s = .next t → t.eng = .idle → Q t)
    (waits : ∀ s, P s → Q s)
    (env : ∀ s es, Q s → Q { s with env := es })
    {es : List EnvEvent} {s t : State} (hP : P s) (h : serve es s = .next t) : Q t := by
  induction es generalizing s with
  | nil => cases h; exact env _ _ (waits _ hP)
  | cons e es ih =>
    simp only [serve] at h
    split at h
    · rename_i u hu
      split at h
      · rename_i hi
        cases h
        exact env _ _ (ends e s u hP hu hi)
      · rename_i hi
        exact ih (busy e s u hP hu hi) h
    · cases h
    · cases h

end Sys2Proof.Machine
end

