-- ==== Sys2Proof/Laws/PerInstr.lean ====
section
/-! SUPPORT. Facts about every instruction as syntax, one lemma per constructor. -/

namespace Sys2Proof.Laws

/-- The request of an instruction is 1 to 6 bytes, and its first byte is a generic read's, a generic write's or a
function code of neither (spec/30_encoding.md R92, R93, R96 to R98). -/
def RequestShape.Statement (i : Instr) : Prop :=
  ∀ cfg : Config, i.wf cfg = true →
    1 ≤ (encode cfg i).length ∧ (encode cfg i).length ≤ longestRequest ∧
      ((encode cfg i).head? = some 0xF2 ∨ (encode cfg i).head? = some 0xF4 ∨
        ∃ b, encode cfg i = [b] ∧ b ≠ 0xF2 ∧ b ≠ 0xF4)

theorem RequestShape.genericRead (t c : Byte) : RequestShape.Statement (.genericRead t c) := by
  intro cfg _
  simp [encode, longestRequest]

theorem RequestShape.genericWrite (t : Byte) : RequestShape.Statement (.genericWrite t) := by
  intro cfg _
  simp [encode, longestRequest]

theorem RequestShape.unknownFunction (b : Byte) : RequestShape.Statement (.unknownFunction b) := by
  intro cfg h
  have hb : b ≠ 0xF2 ∧ b ≠ 0xF4 := by simpa [Instr.wf] using h
  exact ⟨by simp [encode], by simp [encode, longestRequest], .inr (.inr ⟨b, rfl, hb⟩)⟩

theorem RequestShape.pbitmap : RequestShape.Statement .pbitmap := by
  intro cfg _
  simp [encode, longestRequest]

theorem RequestShape.preadStatus (k : Byte) : RequestShape.Statement (.preadStatus k) := by
  intro cfg _
  simp [encode, longestRequest]

theorem RequestShape.pset (k v : Byte) : RequestShape.Statement (.pset k v) := by
  intro cfg _
  simp [encode, longestRequest]

theorem RequestShape.pflags (k v m : Byte) : RequestShape.Statement (.pflags k v m) := by
  intro cfg _
  simp [encode, longestRequest]

theorem RequestShape.portWriteBadLength (k n : Byte) : RequestShape.Statement (.portWriteBadLength k n) := by
  intro cfg _
  simp [encode, longestRequest]

end Sys2Proof.Laws
end

