-- ==== Sys2Proof/Tests/Slice0.lean ====
section
/-! SUPPORT. Tests: expected values come from spec/95_test_vectors.md (the vector is named in each comment) or are
written out from the encodings of spec/30_encoding.md. Then one witness for every statement that has hypotheses. -/

namespace Sys2Proof.Tests

open Sys2Proof Sys2Proof.Machine

/-! ### Ill-formed terms are refused (R10, R135, U29) -/

theorem test_default_config_wf : Config.default.wf = true := by decide

theorem test_no_ports_refused : ({ Config.default with nPort := 0 } : Config).nPortOk = false := by decide

theorem test_256_ports_refused : ({ Config.default with nPort := 256 } : Config).nPortOk = false := by decide

theorem test_empty_registry_refused : ({ Config.default with typeImpl := [] } : Config).nTypesOk = false := by decide

theorem test_257_tags_refused :
    ({ Config.default with typeImpl := .port :: List.replicate 256 .dummy } : Config).nTypesOk = false := by
  decide +kernel

theorem test_port_tag_beyond_registry_refused :
    ({ Config.default with portTag := 6 } : Config).portTagOk = false := by decide

theorem test_two_port_tags_refused :
    ({ Config.default with typeImpl := [.port, .dummy, .port] } : Config).portTagOk = false := by decide

theorem test_no_port_tag_refused :
    ({ Config.default with typeImpl := [.dummy, .dummy, .dummy] } : Config).portTagOk = false := by decide

theorem test_small_buffer_refused : ({ Config.default with maxPayload := 1 } : Config).maxPayloadOk = false := by decide

theorem test_buffer_below_bitmap_refused :
    ({ Config.default with nPort := 17, maxPayload := 2 } : Config).maxPayloadOk = false := by decide

theorem test_too_many_init_flags_refused :
    ({ Config.default with portInitFlags := [0, 0, 0, 0] } : Config).initFlagsOk = false := by decide

theorem test_port_read_as_generic_refused :
    (Instr.genericRead 2 0).wf Config.default = false ∧ (Instr.genericRead 5 0).wf Config.default = true := by decide

theorem test_port_write_as_generic_refused : (Instr.genericWrite 2).wf Config.default = false := by decide

theorem test_known_function_as_unknown_refused :
    (Instr.unknownFunction 0xF2).wf Config.default = false ∧ (Instr.unknownFunction 0xF4).wf Config.default = false := by
  decide

theorem test_status_of_channel_zero_refused : (Instr.preadStatus 0).wf Config.default = false := by decide

theorem test_good_length_as_bad_refused :
    (Instr.portWriteBadLength 1 1).wf Config.default = false ∧
      (Instr.portWriteBadLength 1 2).wf Config.default = false := by decide

/-! ### Decoding: words written out from R93, R96 to R98, R109, R112 -/

theorem test_decode_generic_read :
    decode Config.default [0b11110010, 0b00000101, 0b00000011, 0xAA] = .ok (.genericRead 5 3, [0xAA]) := by decide

theorem test_decode_generic_write :
    decode Config.default [0b11110100, 0b00000001, 0xAA] = .ok (.genericWrite 1, [0xAA]) := by decide

theorem test_decode_unknown_function :
    decode Config.default [0b11110011, 0x02] = .ok (.unknownFunction 0xF3, [0x02]) := by decide

theorem test_decode_pbitmap : decode Config.default [0b11110010, 0b00000010, 0b00000000] = .ok (.pbitmap, []) := by
  decide

theorem test_decode_pread_status :
    decode Config.default [0b11110010, 0b00000010, 0b11111111] = .ok (.preadStatus 255, []) := by decide

theorem test_decode_pset :
    decode Config.default [0b11110100, 0b00000010, 0b00000011, 0b00000001, 0b10000000] = .ok (.pset 3 0x80, []) := by
  decide

theorem test_decode_pflags :
    decode Config.default [0b11110100, 0b00000010, 0b00000001, 0b00000010, 0b01000011, 0b00001000] =
      .ok (.pflags 1 0x43 0x08, []) := by decide

theorem test_decode_bad_length :
    decode Config.default [0b11110100, 0b00000010, 0b00000001, 0b00000000, 0x01] =
      .ok (.portWriteBadLength 1 0, [0x01]) := by decide

theorem test_decode_rejects_by_name :
    decode Config.default [] = .error .noBytes ∧ decode Config.default [0xF2, 0x02] = .error .truncatedRead ∧
      decode Config.default [0xF4] = .error .truncatedWrite ∧
      decode Config.default [0xF4, 0x02, 0x01, 0x02, 0x08] = .error .truncatedWrite := by decide

theorem test_encode_pflags :
    encode Config.default (.pflags 3 0x43 0x40) = [0xF4, 0x02, 0x03, 0x02, 0x43, 0x40] := by decide

/-- The rows of spec/opcode_table.json as its `fixed` and `fields` number the bits. -/
theorem test_table_words :
    decodeTableWord 8 0xF2 = some (.genericRead 0 0) ∧ decodeTableWord 8 0xF4 = some (.genericWrite 0) ∧
      decodeTableWord 8 0x33 = some (.unknownFunction 0x33) ∧ decodeTableWord 24 0xF20200 = some .pbitmap ∧
      decodeTableWord 24 0xF20203 = some (.preadStatus 3) ∧
      decodeTableWord 32 0xF4020105 = some (.portWriteBadLength 1 5) ∧
      decodeTableWord 40 0xF402010101 = some (.pset 1 1) ∧
      decodeTableWord 48 0xF40203024340 = some (.pflags 3 0x43 0x40) := by decide

/-! ### The CRC (L2.CRC) -/

theorem test_crc_check_value :
    crcOf .oneWire 0 [0x31, 0x32, 0x33, 0x34, 0x35, 0x36, 0x37, 0x38, 0x39] = 0xBB3D := by decide +kernel

theorem test_crc_single_bytes :
    accumulate .oneWire 0 0x01 = 0xC0C1 ∧ accumulate .oneWire 0xFFFF 0x00 = 0x40BF ∧
      accumulate .oneWire 0x1234 0x56 = 0xE993 := by decide +kernel

theorem test_crc_prefixes :
    crcOf .oneWire 0 [0xF2, 0x02, 0x00, 0x01] = 0xB852 ∧ crcOf .oneWire 0 [0xF4, 0x02, 0x01, 0x02] = 0xA113 := by
  decide +kernel

/-! ### The port (L2.PS, L2.PC, L2.MW, L2.AL, L2.RL) -/

/-- A state at rest with these port flags and this script. -/
def at3 (flags : List Byte) (env : List EnvEvent) : State :=
  { State.reset with ports := Memory.ofFlags 0 flags, env := env }

/-- The flags of port 0 after an operation on it. -/
def port0 (r : Except Fault State) : Option Byte :=
  match r with
  | .ok s => some (s.flags 0)
  | .error _ => none

theorem test_port_set_layout_a :
    port0 (portSet 0 true (at3 [0x00] [])) = some 0x09 ∧ port0 (portSet 0 true (at3 [0x01] [])) = some 0x01 ∧
      port0 (portSet 0 false (at3 [0x08] [])) = some 0x08 ∧ port0 (portSet 0 false (at3 [0x7B] [])) = some 0x72 := by
  decide +kernel

theorem test_port_set_layout_b :
    port0 (portSet 0 true (at3 [0x04] [])) = some 0x0E ∧ port0 (portSet 0 true (at3 [0x05] [])) = some 0x0F ∧
      port0 (portSet 0 false (at3 [0x07] [])) = some 0x05 := by decide +kernel

theorem test_port_check :
    port0 (portCheck 0 true (at3 [0x00] [])) = some 0x18 ∧ port0 (portCheck 0 false (at3 [0x18] [])) = some 0x10 ∧
      port0 (portCheck 0 false (at3 [0x0B] [])) = some 0x13 ∧ port0 (portCheck 0 true (at3 [0x18] [])) = some 0x18 := by
  decide +kernel

theorem test_masked_write :
    maskedFlags 0x43 0x43 0x00 = 0x43 ∧ maskedFlags 0x55 0xFF 0x0B = 0x55 ∧ maskedFlags 0x20 0x20 0x18 = 0x38 ∧
      maskedFlags 0x00 0x30 0x5B = 0x4B := by decide

theorem test_alert_fill_nine_ports :
    portAlertFill { at3 [0x50, 0x10, 0, 0x60, 0, 0x40, 0, 0, 0x70] [] with cfg := { Config.default with nPort := 9 } } =
      [0x09, 0x01] := by decide +kernel

theorem test_alert_needs_arming :
    portAlertCheck (at3 [0x10, 0, 0] []) = false ∧ portAlertCheck (at3 [0, 0, 0x43] []) = false ∧
      portAlertCheck (at3 [0, 0, 0x5B] []) = true := by decide +kernel

theorem test_bitmap_sixteen_ports :
    levelBitmap
      { at3 [0, 0, 0, 0, 0, 0, 0, 0, 8, 0, 0, 0, 0, 0, 0, 8] [] with cfg := { Config.default with nPort := 16 } } =
      [0x00, 0x81] := by decide +kernel

/-! ### One step of each instruction -/

/-- What a test looks at: the position, the port flags and the outward record. -/
def view (r : Result State) : Option (Eng × List Byte × List OutEvent) :=
  (nextState r).map fun s => (s.eng, (List.range s.cfg.nPort).map s.flags, s.out)

/-- L2.RD.1. -/
theorem test_pbitmap :
    view (exec .pbitmap (at3 [0x18, 0, 0x18] [.txDone, .txDone, .txDone, .txDone, .rx 0x06, .rx 0x01])) =
      some (.idle, [0x18, 0, 0x18], [.tx 0x01, .tx 0x05, .tx 0x06, .tx 0x01, .readDone 2 0]) := by decide +kernel

/-- L2.RD.13. -/
theorem test_pread_status_clears_the_report :
    view (exec (.preadStatus 3) (at3 [0, 0, 0x5B] [.txDone, .txDone, .txDone, .txDone, .rx 0x77, .rx 0xF9])) =
      some (.idle, [0, 0, 0x4B], [.tx 0x01, .tx 0x5B, .tx 0x77, .tx 0xF9, .readDone 2 3]) := by decide +kernel

/-- L2.RD.9: the echo is wrong in one bit. -/
theorem test_pread_status_wrong_echo :
    view (exec (.preadStatus 1) (at3 [0, 0, 0] [.txDone, .txDone, .txDone, .txDone, .rx 0x96, .rx 0xC2])) =
      some (.idle, [0, 0, 0], [.tx 0x01, .tx 0x00, .tx 0x97, .tx 0xC2, .aborted .crcMismatch]) := by decide +kernel

/-- L2.WR.1. -/
theorem test_pset :
    view (exec (.pset 1 1) (at3 [0, 0, 0] [.txDone, .txDone, .rx 0xDE, .rx 0x02])) =
      some (.idle, [0x09, 0, 0], [.tx 0xDE, .tx 0x02, .writeDone 2]) := by decide +kernel

/-- L2.WR.6. -/
theorem test_pset_bad_channel :
    view (exec (.pset 4 1) (at3 [0, 0, 0] [])) = some (.idle, [0, 0, 0], [.aborted .badChannel]) := by decide +kernel

/-- L2.WR.4. -/
theorem test_pflags :
    view (exec (.pflags 3 0x43 0x43) (at3 [0, 0, 0] [.txDone, .txDone, .rx 0x42, .rx 0x0E])) =
      some (.idle, [0, 0, 0x43], [.tx 0x42, .tx 0x0E, .writeDone 2]) := by decide +kernel

/-- L2.WR.10: the bus aborts the first echo byte. -/
theorem test_pflags_bus_abort :
    view (exec (.pflags 1 0x08 0x08) (at3 [0, 0, 0] [.txDone, .txDone, .abort])) =
      some (.idle, [0, 0, 0], [.tx 0x35, .tx 0x71, .aborted .busFault]) := by decide +kernel

/-- L2.WR.8. -/
theorem test_port_write_bad_length :
    view (exec (.portWriteBadLength 1 3) (at3 [0, 0, 0] [])) = some (.idle, [0, 0, 0], [.aborted .badLength]) := by
  decide +kernel

/-- L2.DSP.8. -/
theorem test_generic_read_of_a_dummy :
    view (exec (.genericRead 5 0) (at3 [0, 0, 0] [])) = some (.idle, [0, 0, 0], [.aborted .noCapability]) := by
  decide +kernel

/-- L2.DSP.6. -/
theorem test_generic_read_unknown_type :
    view (exec (.genericRead 6 0) (at3 [0, 0, 0] [])) =
      some (.idle, [0, 0, 0], [.diag (.unknownType 6), .aborted .unknownType]) := by decide +kernel

/-- L2.DSP.9. -/
theorem test_generic_write_to_a_dummy :
    view (exec (.genericWrite 0) (at3 [0, 0, 0] [])) = some (.idle, [0, 0, 0], [.aborted .noCapability]) := by
  decide +kernel

/-- L2.DSP.10. -/
theorem test_generic_write_unknown_type :
    view (exec (.genericWrite 6) (at3 [0, 0, 0] [])) =
      some (.idle, [0, 0, 0], [.diag (.unknownType 6), .aborted .unknownType]) := by decide +kernel

/-- L2.DSP.3. -/
theorem test_unknown_function :
    view (exec (.unknownFunction 0x33) (at3 [0, 0, 0] [])) =
      some (.idle, [0, 0, 0], [.diag (.unknownFunction 0x33), .aborted .unknownFunction]) := by decide +kernel

/-- L2.ML.3. -/
theorem test_iteration_aggregates_every_port :
    (nextState (step (at3 [0, 0, 0x5B] [.iter false]))).map (fun s => (s.pollCur, s.alertPresent)) =
      some (1, true) := by decide +kernel

/-- A step with a table word placed runs the instruction of that word. -/
theorem test_fetch_word_runs :
    view (step (State.reset.withFetchWord 8 0x33)) =
      some (.idle, [0, 0, 0], [.diag (.unknownFunction 0x33), .aborted .unknownFunction]) := by decide +kernel

/-! ### Witnesses: a concrete state and operands that meet the hypotheses of each statement, together -/

/-- A result that is a next state with a property. -/
theorem next_of {r : Result State} {p : State → Bool} (h : (nextState r).any p = true) :
    ∃ t, r = .next t ∧ p t = true := by
  cases r with
  | next t => exact ⟨t, rfl, h⟩
  | fault f => cases h
  | refused q => cases h

/-- A body for an EXTERNAL type: channel 0 reads two bytes, channel 1 forty; a write takes one byte 0x07. -/
def body : ExtBody where
  reads := [(0, .payload [0xAA, 0xBB]), (1, .payload (List.replicate 40 0)), (2, .abort .badChannel)]
  writes := [([], .receive), ([0x07], .exchange)]
  alert := true
  fill := []

/-- A configuration whose last tag, 5, is EXTERNAL. -/
def cfgExt : Config := { Config.default with typeImpl := [.dummy, .dummy, .port, .dummy, .dummy, .external] }

/-- A state at rest in `cfgExt`, with `body` at tag 5. -/
def withExt (env : List EnvEvent) : State :=
  { State.resetWith cfgExt with ext := [(5, body)], env := env }

/-- A state inside a status read of channel 1, before its second echo byte, with `CHANGED` set on port 0. -/
def midRead (env : List EnvEvent) : State :=
  { at3 [0x18] env with
    eng := .rdEchoRx, crc := some 0x3768, tag := some 2, chan := some 1, len := some 1, buf := [0x18], idx := some 1,
    echoLo := some 0x97 }

/-- A state that is transmitting the first trailer byte of a port write. -/
def midWrite (env : List EnvEvent) : State :=
  { at3 [] env with
    eng := .pwCrcTx, crc := some 0xFD21, tag := some 2, chan := some 1, len := some 1, buf := [0x01], idx := some 0 }

theorem witness_StepRunsTheDecodedInstruction :
    let s := at3 [] [.rx 0xF2, .rx 0x02, .rx 0x00, .txDone]
    s.eng = .idle ∧ decode s.cfg (leadingBytes s.env) = .ok (.pbitmap, []) := by decide

theorem witness_StepKeepsTheInvariant :
    (∃ t, (at3 [0x18] [.iter true]).inv = true ∧ step (at3 [0x18] [.iter true]) = .next t) ∧
      ∃ t, (midRead [.rx 0xC8]).inv = true ∧ step (midRead [.rx 0xC8]) = .next t := by
  obtain ⟨t, h, -⟩ := next_of (r := step (at3 [0x18] [.iter true])) (p := fun _ => true) (by decide +kernel)
  obtain ⟨u, h', -⟩ := next_of (r := step (midRead [.rx 0xC8])) (p := fun _ => true) (by decide +kernel)
  exact ⟨⟨t, by decide +kernel, h⟩, ⟨u, by decide +kernel, h'⟩⟩

theorem witness_ResetMeetsTheInvariant : cfgExt.wf = true := by decide

/-- Both outcomes occur: a status read's last echo byte, and an acceptance that answers no transmit. -/
theorem witness_NoStepReachesAModelFault :
    (midRead [.rx 0xC8]).inv = true ∧ (midRead [.txDone]).inv = true ∧ nextState (step (midRead [.txDone])) = none := by
  decide +kernel

/-- One state for each kind of event, the idle and the EXTERNAL positions among them. -/
theorem witness_AdmittedAnswersNeverStop :
    ((midRead []).inv = true ∧ (midRead []).eng ∉ [Eng.rdLenTx, .rdDataTx, .rdCrcTx, .pwCrcTx] ∧
        (midRead []).xw ≠ some .trailer) ∧
      ((midWrite []).inv = true ∧ (midWrite []).eng ∈ [Eng.rdLenTx, .rdDataTx, .rdCrcTx, .pwCrcTx]) ∧
      (let s := { withExt [] with eng := .xw, crc := some 0, tag := some 5, xw := some .trailer, idx := some 1 }
       s.inv = true ∧ s.xw = some .trailer) ∧
      ((at3 [] []).inv = true ∧ (at3 [] []).eng = .idle) := by decide +kernel

/-- The first and the last port. -/
theorem witness_PowerOnResetValues : 0 < State.reset.cfg.nPort ∧ 2 < State.reset.cfg.nPort := by decide

theorem witness_BootRefusesIllFormedConfigurations :
    ({ Config.default with portTag := 6 } : Config).wf = false ∧ Config.default.wf = true := by decide

theorem witness_NoStepChangesTheConfiguration : ∃ t, step (at3 [] [.iter true]) = .next t := by
  obtain ⟨t, h, -⟩ := next_of (r := step (at3 [] [.iter true])) (p := fun _ => true) (by decide +kernel)
  exact ⟨t, h⟩

theorem witness_UnansweredOperationWaits : (midRead []).env = [] ∧ (at3 [] []).env = [] := by decide

theorem witness_EngineFollowsItsPositions :
    EnvEvent.answersBus (.rx 0xF2) = true ∧ ∃ t, envStep (.rx 0xF2) (at3 [] []) = .next t ∧ t.eng = .rdTag := by
  obtain ⟨t, h, h'⟩ := next_of (r := envStep (.rx 0xF2) (at3 [] [])) (p := fun t => t.eng == .rdTag) (by decide +kernel)
  exact ⟨rfl, t, h, by simpa using h'⟩

/-- At the last echo byte, and at `IDLE`. -/
theorem witness_BusAbortEndsAnyTransaction :
    ((midRead [.abort]).env = .abort :: [] ∧ (midRead [.abort]).eng ≠ .idle) ∧
      ((at3 [] [.abort]).env = .abort :: [] ∧ (at3 [] [.abort]).eng = .idle) := by decide

theorem witness_AbortIsPreciseForEveryInstruction :
    ∃ t, (at3 [0x18] [.abort]).AtRest ∧ exec (.preadStatus 1) (at3 [0x18] [.abort]) = .next t ∧ t.eng = .idle ∧
      t.out.getLast? = some (.aborted .busFault) := by
  obtain ⟨t, h, h'⟩ := next_of (r := exec (.preadStatus 1) (at3 [0x18] [.abort]))
    (p := fun t => decide (t.eng = .idle ∧ t.out.getLast? = some (.aborted .busFault))) (by decide +kernel)
  exact ⟨t, ⟨by decide +kernel, rfl⟩, h, of_decide_eq_true h'⟩

/-- A step that leaves the transaction in progress, one that aborts it, and the commit of a read that clears `CHANGED`. -/
theorem witness_NothingPersistentIsWrittenBeforeTheCommit :
    (∃ t, EnvEvent.answersBus .txDone = true ∧ envStep .txDone (midWrite []) = .next t ∧ t.eng ≠ .idle) ∧
      (∃ t, EnvEvent.answersBus (.rx 0) = true ∧ envStep (.rx 0) (midRead []) = .next t ∧
        t.out.getLast? = some (.aborted .crcMismatch)) ∧
      ∃ t, EnvEvent.answersBus (.rx 0xC8) = true ∧ envStep (.rx 0xC8) (midRead []) = .next t ∧
        (midRead []).inv = true ∧ ¬ (midRead []).SamePersistent t := by
  obtain ⟨t, h, h'⟩ := next_of (r := envStep .txDone (midWrite [])) (p := fun t => decide (t.eng ≠ .idle))
    (by decide +kernel)
  obtain ⟨u, k, k'⟩ := next_of (r := envStep (.rx 0) (midRead []))
    (p := fun t => decide (t.out.getLast? = some (.aborted .crcMismatch))) (by decide +kernel)
  obtain ⟨v, l, l'⟩ := next_of (r := envStep (.rx 0xC8) (midRead []))
    (p := fun t => decide (t.ports ≠ (midRead []).ports)) (by decide +kernel)
  exact ⟨⟨t, rfl, h, of_decide_eq_true h'⟩, ⟨u, rfl, k, of_decide_eq_true k'⟩,
    ⟨v, rfl, l, by decide +kernel, fun same => of_decide_eq_true l' same.2.1⟩⟩

theorem witness_NoInstructionWritesThePoller :
    ∃ t, exec (.pset 1 1) (at3 [] [.txDone, .txDone, .rx 0xDE, .rx 0x02]) = .next t := by
  obtain ⟨t, h, -⟩ := next_of (r := exec (.pset 1 1) (at3 [] [.txDone, .txDone, .rx 0xDE, .rx 0x02]))
    (p := fun _ => true) (by decide +kernel)
  exact ⟨t, h⟩

/-- An instruction at rest that changes the flags of port `j`. -/
def changesPort (i : Instr) (s : State) (j : Nat) : Prop :=
  ∃ t, s.AtRest ∧ exec i s = .next t ∧ t.flags j ≠ s.flags j

theorem changesPort_of {i : Instr} {s : State} {j : Nat} (h0 : s.inv = true) (h1 : s.eng = .idle)
    (h : (nextState (exec i s)).any (fun t => decide (t.flags j ≠ s.flags j)) = true) : changesPort i s j := by
  obtain ⟨t, h, h'⟩ := next_of h
  exact ⟨t, ⟨h0, h1⟩, h, of_decide_eq_true h'⟩

/-- One instruction of each arm that can change a port: the first port and the last. -/
theorem witness_OnlyTheAddressedPortChanges :
    changesPort (.preadStatus 3) (at3 [0, 0, 0x5B] [.txDone, .txDone, .txDone, .txDone, .rx 0x77, .rx 0xF9]) 2 ∧
      changesPort (.genericRead 2 3) (at3 [0, 0, 0x5B] [.txDone, .txDone, .txDone, .txDone, .rx 0x77, .rx 0xF9]) 2 ∧
      changesPort (.pset 1 1) (at3 [] [.txDone, .txDone, .rx 0xDE, .rx 0x02]) 0 ∧
      changesPort (.genericWrite 2) (at3 [] [.rx 1, .rx 1, .rx 1, .txDone, .txDone, .rx 0xDE, .rx 0x02]) 0 ∧
      changesPort (.unknownFunction 0xF4) (at3 [] [.rx 2, .rx 1, .rx 1, .rx 1, .txDone, .txDone, .rx 0xDE, .rx 0x02]) 0 ∧
      changesPort (.portWriteBadLength 1 1) (at3 [] [.rx 1, .txDone, .txDone, .rx 0xDE, .rx 0x02]) 0 ∧
      changesPort (.pflags 3 0x43 0x43) (at3 [] [.txDone, .txDone, .rx 0x42, .rx 0x0E]) 2 := by
  refine ⟨?_, ?_, ?_, ?_, ?_, ?_, ?_⟩ <;>
    exact changesPort_of (by decide +kernel) (by decide +kernel) (by decide +kernel)

/-- An EXTERNAL payload of two bytes; and the port's status byte. -/
theorem witness_GenericReadCompletes :
    (let s := withExt [.txDone, .txDone, .txDone, .txDone, .txDone,
        .rx (lowByte (trailer (readCrc cfgExt 5 0 [0xAA, 0xBB]))),
        .rx (highByte (trailer (readCrc cfgExt 5 0 [0xAA, 0xBB])))]
     s.AtRest ∧ readLength s 5 0 = .ok 2 ∧ readPayload s 5 0 = .ok [0xAA, 0xBB] ∧ 2 ≤ s.cfg.maxPayload ∧
      s.env = readAnswers 2 (trailer (readCrc s.cfg 5 0 [0xAA, 0xBB])) ++ []) ∧
    (let s := at3 [0, 0, 0x5B] [.txDone, .txDone, .txDone, .txDone, .rx 0x77, .rx 0xF9, .iter true]
     s.AtRest ∧ readLength s 2 3 = .ok 1 ∧ readPayload s 2 3 = .ok [0x5B] ∧ 1 ≤ s.cfg.maxPayload ∧
      s.env = readAnswers 1 (trailer (readCrc s.cfg 2 3 [0x5B])) ++ [.iter true]) := by
  unfold State.AtRest
  decide +kernel

theorem witness_GenericReadWithAWrongEchoAborts :
    let s := at3 [0, 0, 0x5B] [.txDone, .txDone, .txDone, .txDone, .rx 0x76, .rx 0xF9]
    s.AtRest ∧ readLength s 2 3 = .ok 1 ∧ readPayload s 2 3 = .ok [0x5B] ∧ 1 ≤ s.cfg.maxPayload ∧
      0xF976 ≠ trailer (readCrc s.cfg 2 3 [0x5B]) ∧ s.env = readAnswers 1 0xF976 ++ [] := by
  unfold State.AtRest
  decide +kernel

/-- The program that answers, and the one that waits. -/
theorem witness_GenericReadIsItsSequentialProgram :
    (withExt []).AtRest ∧ (genericReadProgram (withExt []) [.rx 5, .rx 0]).isNone = true ∧
      (genericReadProgram (withExt []) [.rx 5, .rx 2]).isSome = true := by
  unfold State.AtRest
  decide +kernel

/-- The first tag beyond the registry, a dummy, and an EXTERNAL length above `MAX_PAYLOAD` (L2.RD.14). -/
theorem witness_RejectedReadsTransmitNothing :
    (withExt []).AtRest ∧ (withExt []).cfg.nTypes ≤ (6 : Byte).toNat ∧ lookup cfgExt 4 = some .dummy ∧
      readLength (withExt []) 5 1 = .ok 40 ∧ (withExt []).cfg.maxPayload < 40 := by
  unfold State.AtRest
  decide +kernel

/-- L2.RD.1. -/
theorem witness_PbitmapCompletes :
    let s := at3 [0x18, 0, 0x18] [.txDone, .txDone, .txDone, .txDone, .rx 0x06, .rx 0x01]
    s.AtRest ∧
      s.env = readAnswers (ceilDiv8 s.cfg.nPort) (trailer (readCrc s.cfg s.cfg.portTag 0 (levelBitmap s))) ++ [] := by
  unfold State.AtRest
  decide +kernel

/-- The first and the last channel (L2.RD.8, L2.RD.13). -/
theorem witness_PreadStatusCompletes :
    (let s := at3 [0x18, 0, 0x18] [.txDone, .txDone, .txDone, .txDone, .rx 0x97, .rx 0xC8]
     s.AtRest ∧ namesPort s.cfg 1 = true ∧
      s.env = readAnswers 1 (trailer (readCrc s.cfg s.cfg.portTag 1 [s.flags (portOf 1)])) ++ []) ∧
    (let s := at3 [0, 0, 0x5B] [.txDone, .txDone, .txDone, .txDone, .rx 0x77, .rx 0xF9]
     s.AtRest ∧ namesPort s.cfg 3 = true ∧
      s.env = readAnswers 1 (trailer (readCrc s.cfg s.cfg.portTag 3 [s.flags (portOf 3)])) ++ []) := by
  unfold State.AtRest
  decide +kernel

theorem witness_DeliveredReportIsCleared :
    let s := at3 [0x18, 0, 0x18] [.txDone, .txDone, .txDone, .txDone, .rx 0x97, .rx 0xC8]
    ∃ t, s.AtRest ∧ namesPort s.cfg 1 = true ∧ 0x3768 = readCrc s.cfg s.cfg.portTag 1 [s.flags (portOf 1)] ∧
      s.env = readAnswers 1 (trailer 0x3768) ++ [] ∧ exec (.preadStatus 1) s = .next t := by
  intro s
  obtain ⟨t, h, -⟩ := next_of (r := exec (.preadStatus 1) s) (p := fun _ => true) (by decide +kernel)
  exact ⟨t, ⟨by decide +kernel, rfl⟩, by decide +kernel, by decide +kernel, by decide +kernel, h⟩

/-- The mode encodes the value already, and it does not (L2.WR.2, L2.WR.1). -/
theorem witness_PsetCompletes :
    (let s := at3 [] [.txDone, .txDone, .rx 0xEF, .rx 0xC2]
     s.AtRest ∧ namesPort s.cfg 2 = true ∧ s.env = echoAnswers (trailer (portWriteCrc s.cfg 2 1 [0])) ++ []) ∧
    (let s := at3 [] [.txDone, .txDone, .rx 0xDE, .rx 0x02]
     s.AtRest ∧ namesPort s.cfg 1 = true ∧ s.env = echoAnswers (trailer (portWriteCrc s.cfg 1 1 [1])) ++ []) := by
  unfold State.AtRest
  decide +kernel

/-- L2.WR.4. -/
theorem witness_PflagsCompletes :
    let s := at3 [] [.txDone, .txDone, .rx 0x42, .rx 0x0E]
    s.AtRest ∧ namesPort s.cfg 3 = true ∧
      s.env = echoAnswers (trailer (portWriteCrc s.cfg 3 2 [0x43, 0x43])) ++ [] := by
  unfold State.AtRest
  decide +kernel

/-- L2.WR.9, and the echo of the CRC itself (L2.WR.11). -/
theorem witness_PortWriteWithAWrongEchoAppliesNothing :
    (let s := at3 [] [.txDone, .txDone, .rx 0x00, .rx 0x00]
     s.AtRest ∧ namesPort s.cfg 1 = true ∧ s.env = echoAnswers 0 ++ [] ∧ 0 ≠ trailer (portWriteCrc s.cfg 1 1 [8]) ∧
      0 ≠ trailer (portWriteCrc s.cfg 1 2 [8, 8])) ∧
    (let s := at3 [] [.txDone, .txDone, .rx 0xCA, .rx 0x8E]
     s.AtRest ∧ namesPort s.cfg 1 = true ∧ s.env = echoAnswers 0x8ECA ++ [] ∧
      0x8ECA ≠ trailer (portWriteCrc s.cfg 1 2 [8, 8])) := by
  unfold State.AtRest
  decide +kernel

/-- Lengths 0, 3 and 255. -/
theorem witness_PortWriteBadLengthAborts :
    (at3 [] []).AtRest ∧ namesPort (at3 [] []).cfg 1 = true ∧ (0 : Byte) ≠ 1 ∧ (0 : Byte) ≠ 2 ∧ (3 : Byte) ≠ 1 ∧
      (3 : Byte) ≠ 2 ∧ (255 : Byte) ≠ 1 ∧ (255 : Byte) ≠ 2 := by
  unfold State.AtRest
  decide +kernel

/-- Channel 0, the first one above `N_PORT`, and the last. -/
theorem witness_ReservedChannelsAbort :
    (at3 [] []).AtRest ∧ namesPort (at3 [] []).cfg 0 = false ∧ namesPort (at3 [] []).cfg 4 = false ∧
      namesPort (at3 [] []).cfg 255 = false := by
  unfold State.AtRest
  decide +kernel

theorem witness_ExternalWriteCompletes :
    let s := withExt [.rx 0x07, .txDone, .txDone, .rx (lowByte (trailer (crcOf .oneWire 0 [0xF4, 5, 7]))),
      .rx (highByte (trailer (crcOf .oneWire 0 [0xF4, 5, 7])))]
    s.AtRest ∧ lookup s.cfg 5 = some .external ∧
      (∀ n, n < [(0x07 : Byte)].length → extOp (extBody s 5) ([0x07].take n) = .receive) ∧
      extOp (extBody s 5) [0x07] = .exchange ∧
      s.env = [(0x07 : Byte)].map .rx ++ echoAnswers (trailer (crcOf s.cfg.crcAlgo 0 (0xF4 :: 5 :: [0x07]))) ++ [] := by
  unfold State.AtRest
  decide +kernel

/-- The program that answers, and the one that waits. -/
theorem witness_GenericWriteIsItsSequentialProgram :
    (withExt []).AtRest ∧ (genericWriteProgram (withExt []) [.rx 5, .rx 7, .txDone]).isNone = true ∧
      (genericWriteProgram (withExt []) [.rx 2, .rx 1, .rx 3]).isSome = true := by
  unfold State.AtRest
  decide +kernel

theorem witness_RejectedWritesAbortAtTheTag :
    (at3 [] []).AtRest ∧ (at3 [] []).cfg.nTypes ≤ (6 : Byte).toNat ∧ lookup (at3 [] []).cfg 5 = some .dummy := by
  unfold State.AtRest
  decide +kernel

theorem witness_UnknownFunctionAborts :
    (at3 [] []).AtRest ∧ (0xF3 : Byte) ≠ 0xF2 ∧ (0xF3 : Byte) ≠ 0xF4 := by
  unfold State.AtRest
  decide +kernel

/-- The first and the last port; flags that agree in bits 0 to 2 alone. -/
theorem witness_PinOutputFollowsTheMode :
    0 < State.reset.cfg.nPort ∧ 2 < State.reset.cfg.nPort ∧ (0xFD : Byte) &&& 0x07 = 0x05 &&& 0x07 := by decide

/-- Flags whose mode encodes the value, and flags whose mode does not, on the last port. -/
theorem witness_PortSetWritesLevelAndCurrent :
    (at3 [0, 0, 0x09] []).portsOk = true ∧ 2 < (at3 [0, 0, 0x09] []).cfg.nPort ∧
      lvl ((at3 [0, 0, 0x09] []).flags 2) = true ∧ lvl ((at3 [0, 0, 0x09] []).flags 2) ≠ false := by decide +kernel

theorem witness_PortSetIsIdempotent :
    (at3 [] []).portsOk = true ∧ ∃ t, portSet 0 true (at3 [] []) = .ok t := ⟨by decide +kernel, _, rfl⟩

/-- A sample that matches and one that does not. -/
theorem witness_PortCheckDetectsAChange :
    (at3 [0x08] []).portsOk = true ∧ 0 < (at3 [0x08] []).cfg.nPort ∧ true = flagCurrent ((at3 [0x08] []).flags 0) ∧
      false ≠ flagCurrent ((at3 [0x08] []).flags 0) := by decide +kernel

/-- The first and the last channel that names a port. -/
theorem witness_ReadDoneClearsTheReport :
    namesPort (at3 [] []).cfg 1 = true ∧ namesPort (at3 [] []).cfg 3 = true := by decide

theorem witness_MaskedWriteTakesTheSelectedBits : 0 < (at3 [] []).cfg.nPort ∧ 2 < (at3 [] []).cfg.nPort := by decide

theorem witness_NonModeMaskKeepsTheMode : (0xF8 : Byte) &&& 0x07 = 0x00 := by decide

/-- Channels 0, 1, `N_PORT` and `N_PORT + 1`. -/
theorem witness_PortReadLengthByChannel :
    (0 : Byte) = 0 ∧ (1 ≤ (1 : Byte).toNat ∧ (1 : Byte).toNat ≤ (at3 [] []).cfg.nPort) ∧
      (1 ≤ (3 : Byte).toNat ∧ (3 : Byte).toNat ≤ (at3 [] []).cfg.nPort) ∧
      (at3 [] []).cfg.nPort < (4 : Byte).toNat := by decide

theorem witness_ReadLengthAgreesWithRead :
    readLength (withExt []) 5 0 = .ok 2 ∧ readLength (withExt []) 2 0 = .ok 1 ∧ readLength (withExt []) 2 3 = .ok 1 := by
  decide +kernel

/-- The last port's bit and a residue bit. -/
theorem witness_LevelBitmapPacksTheLevels :
    2 < 8 * (((at3 [] []).cfg.nPort + 7) / 8) ∧ 7 < 8 * (((at3 [] []).cfg.nPort + 7) / 8) := by decide

theorem witness_AlertFillPacksTheAlerts :
    2 < 8 * (((at3 [] []).cfg.nPort + 7) / 8) ∧ 7 < 8 * (((at3 [] []).cfg.nPort + 7) / 8) := by decide

/-- At the start of a cycle and at its last port. -/
theorem witness_MainloopIterationEffect :
    ((at3 [] [.iter true]).AtRest ∧ (at3 [] [.iter true]).env = .iter true :: []) ∧
      (let s := { at3 [0x10] [.iter false] with pollCur := 2, runMax := 1 }
       s.AtRest ∧ s.env = .iter false :: []) := by
  unfold State.AtRest
  decide +kernel

theorem witness_IterationIsEnabledExactlyAtIdle : (at3 [] []).inv = true ∧ (midRead []).inv = true := by decide +kernel

theorem witness_RunningMaximumNeverDecreases :
    let s := { at3 [0x10] [] with pollCur := 1, runMax := 1 }
    ∃ t, s.inv = true ∧ s.pollCur ≠ 0 ∧ envStep (.iter true) s = .next t := by
  intro s
  obtain ⟨t, h, -⟩ := next_of (r := envStep (.iter true) s) (p := fun _ => true) (by decide +kernel)
  exact ⟨t, by decide +kernel, by decide +kernel, h⟩

theorem witness_EveryPortIsSampledInACycle :
    let s := { at3 [] [.iter true, .iter false, .iter true] with pollCur := 1 }
    s.AtRest ∧ [true, false, true].length = s.cfg.nPort ∧ s.env = [true, false, true].map .iter ++ [] := by
  unfold State.AtRest
  decide +kernel

/-- A port's condition, and an EXTERNAL type's. -/
theorem witness_AggregateAlertIsAnArmedReport :
    ((at3 [0, 0, 0x5B] []).cfg.wf = true ∧ anyAlert (at3 [0, 0, 0x5B] []) = true) ∧
      (withExt []).cfg.wf = true ∧ anyAlert (withExt []) = true := by decide +kernel

/-- Two EXTERNAL tags, 4 and 5, and an event of tag 4. -/
theorem witness_ExternalBodyChangesNoCoreState :
    let s := { withExt [] with
      cfg := { cfgExt with typeImpl := [.dummy, .dummy, .port, .dummy, .external, .external] } }
    (∃ t, envStep (.ext 4 ExtBody.none) s = .next t) ∧ (5 : Byte) ≠ 4 ∧ extBody s 5 = body := by
  intro s
  obtain ⟨t, h, -⟩ := next_of (r := envStep (.ext 4 ExtBody.none) s) (p := fun _ => true) (by decide +kernel)
  exact ⟨⟨t, h⟩, by decide, by decide +kernel⟩

end Sys2Proof.Tests
end

/-! PROOFS. No step changes a parameter (spec/00_scope.md R10, R11). Each engine position, event and run keeps `cfg`,
read off what the laws of the engine say the step answers; at the end stands the obligation. Two laws that the runs of
every instruction share come first: `exec` is the transaction of the encoded request, and what `step` can be. -/

namespace Sys2Proof.Machine

variable {s t : State}

/-! ### The step and the instructions as runs -/

/-- Every instruction is the transaction that its own request bytes start (R4). -/
theorem exec_eq_transact (i : Instr) (s : State) : exec i s = transact (encode s.cfg i) s := by
  cases i <;> rfl

/-- A step is the transaction of the request that stands whole at the head of the script at `IDLE`, and otherwise one
event (log entry 4). -/
theorem step_eq_next :
    step s = .next t ↔
      (∃ i rest, s.eng = .idle ∧ fetch s.cfg s.env = some (i, rest) ∧ exec i { s with env := rest } = .next t) ∨
        (s.eng = .idle → fetch s.cfg s.env = none) ∧ microStep s = .next t := by
  unfold step
  split
  · rename_i i rest hidle hfetch
    simp [hidle, hfetch]
  · rename_i hno
    have hnone : s.eng = .idle → fetch s.cfg s.env = none := fun hidle =>
      Option.eq_none_iff_forall_ne_some.mpr fun p hp => hno p.1 p.2 hidle hp
    constructor
    · exact fun h => .inr ⟨hnone, h⟩
    · rintro (⟨i, rest, hidle, hfetch, -⟩ | ⟨-, h⟩)
      · rw [hnone hidle] at hfetch
        cases hfetch
      · exact h

/-! ### The shared parts of a transaction -/

theorem busAbort_cfg (s : State) : (busAbort s).cfg = s.cfg := by
  unfold busAbort
  split <;> rfl

theorem portSet_cfg {i : Nat} {v : Bool} (h : portSet i v s = .ok t) : t.cfg = s.cfg := by
  obtain ⟨-, rfl⟩ := portSet_eq_ok.mp h
  split <;> rfl

theorem portMaskedWrite_cfg {i : Nat} {v m : Byte} (h : portMaskedWrite i v m s = .ok t) : t.cfg = s.cfg := by
  obtain ⟨-, rfl⟩ := portMaskedWrite_eq_ok.mp h
  rfl

theorem portCheck_cfg {i : Nat} {v : Bool} (h : portCheck i v s = .ok t) : t.cfg = s.cfg := by
  obtain ⟨-, rfl⟩ := portCheck_eq_ok.mp h
  split <;> rfl

theorem readDone_cfg {y c : Byte} (h : readDone y c s = .ok t) : t.cfg = s.cfg := by
  rw [(readDone_frame h).1]

theorem trailerStep_cfg {after : State → State} (h : trailerStep after s = .next t)
    (hafter : ∀ u, (after u).cfg = u.cfg) : t.cfg = s.cfg := by
  obtain ⟨c, i, -, -, rfl⟩ := trailerStep_eq_next.mp h
  split
  · exact hafter _
  · rfl

theorem echoStep_cfg {commit : State → Result State} {e : Byte} (h : echoStep commit e s = .next t)
    (hcommit : ∀ u v, commit u = .next v → v.cfg = u.cfg) : t.cfg = s.cfg := by
  obtain ⟨i, -, ⟨-, rfl⟩ | ⟨-, lo, c, -, -, ⟨-, rfl⟩ | ⟨-, h⟩⟩⟩ := echoStep_eq_next.mp h
  · rfl
  · rfl
  · exact (hcommit _ _ h :)

/-! ### The dispatch and the generic read -/

theorem dispatchStep_cfg {b : Byte} (h : dispatchStep b s = .next t) : t.cfg = s.cfg := by
  rw [dispatchStep_eq] at h
  dsimp only at h
  split at h
  · cases h; rfl
  · split at h <;> cases h <;> rfl

theorem rdTagStep_cfg {y : Byte} (h : rdTagStep y s = .next t) : t.cfg = s.cfg := by
  obtain ⟨c, -, ⟨-, rfl⟩ | ⟨-, rfl⟩⟩ := rdTagStep_eq_next h <;> rfl

theorem rdChanStep_cfg {b : Byte} (h : rdChanStep b s = .next t) : t.cfg = s.cfg := by
  obtain ⟨c, y, -, -, ⟨cause, rfl, -⟩ | ⟨n, -, -, rfl⟩⟩ := rdChanStep_eq_next h <;> rfl

theorem rdLenStep_cfg (h : rdLenStep s = .next t) : t.cfg = s.cfg := by
  obtain ⟨n, c, y, k, -, -, -, -, ⟨cause, -, rfl⟩ | ⟨bytes, -, -, rfl⟩⟩ := rdLenStep_eq_next h <;> rfl

theorem rdDataStep_cfg (h : rdDataStep s = .next t) : t.cfg = s.cfg := by
  obtain ⟨i, n, b, c, -, -, -, -, -, rfl⟩ := rdDataStep_eq_next h
  split <;> rfl

theorem readCommit_cfg (h : readCommit s = .next t) : t.cfg = s.cfg := by
  obtain ⟨y, c, u, -, -, hu, rfl⟩ := readCommit_eq_next h
  exact (readDone_cfg hu :)

/-! ### The generic write -/

theorem xwNext_cfg {y : Byte} {got : List Byte} (h : xwNext y got s = .next t) : t.cfg = s.cfg := by
  obtain rfl | rfl | ⟨cause, rfl⟩ := xwNext_eq_next h <;> rfl

theorem wrTagStep_cfg {y : Byte} (h : wrTagStep y s = .next t) : t.cfg = s.cfg := by
  obtain ⟨c, -, ⟨-, rfl⟩ | ⟨-, rfl⟩ | ⟨-, rfl⟩ | ⟨-, h⟩⟩ := wrTagStep_eq_next h
  · rfl
  · rfl
  · rfl
  · exact (xwNext_cfg h :)

theorem pwChanStep_cfg {b : Byte} (h : pwChanStep b s = .next t) : t.cfg = s.cfg := by
  obtain ⟨c, -, rfl⟩ := pwChanStep_eq_next h
  split <;> rfl

theorem pwLenStep_cfg {n : Byte} (h : pwLenStep n s = .next t) : t.cfg = s.cfg := by
  obtain ⟨c, -, rfl⟩ := pwLenStep_eq_next h
  split <;> rfl

theorem pwDataStep_cfg {d : Byte} (h : pwDataStep d s = .next t) : t.cfg = s.cfg := by
  obtain ⟨c, i, n, -, -, -, -, -, rfl⟩ := pwDataStep_eq_next h
  split <;> rfl

theorem portCommit_cfg (h : portCommit s = .next t) : t.cfg = s.cfg := by
  obtain ⟨y, c, n, v, u, -, -, -, -, ⟨-, hu⟩ | ⟨-, m, -, hu⟩, rfl⟩ := portCommit_eq_next h
  · exact (portSet_cfg hu :)
  · exact (portMaskedWrite_cfg hu :)

theorem xwCommit_cfg (h : xwCommit s = .next t) : t.cfg = s.cfg := by
  obtain ⟨y, -, rfl⟩ := xwCommit_eq_next h
  rfl

theorem xwReceiveStep_cfg {b : Byte} (h : xwReceiveStep b s = .next t) : t.cfg = s.cfg := by
  obtain ⟨got, c, y, -, -, -, h⟩ | ⟨-, h⟩ := xwReceiveStep_eq_next h
  · exact (xwNext_cfg h :)
  · exact echoStep_cfg h fun _ _ => xwCommit_cfg

theorem xwTransmitStep_cfg (h : xwTransmitStep s = .next t) : t.cfg = s.cfg :=
  trailerStep_cfg (xwTransmitStep_eq_next h).2 fun _ => rfl

/-! ### Events and runs -/

/-- A received byte, by the engine's position; at a transmit position the answer is a fault. -/
theorem receiveStep_cfg {b : Byte} (h : receiveStep b s = .next t) : t.cfg = s.cfg := by
  cases heng : s.eng <;> simp only [receiveStep, heng, reduceCtorEq] at h
  case idle => exact dispatchStep_cfg h
  case rdTag => exact rdTagStep_cfg h
  case rdChan => exact rdChanStep_cfg h
  case rdEchoRx => exact echoStep_cfg h fun _ _ => readCommit_cfg
  case wrTag => exact wrTagStep_cfg h
  case pwChan => exact pwChanStep_cfg h
  case pwLen => exact pwLenStep_cfg h
  case pwData => exact pwDataStep_cfg h
  case pwEchoRx => exact echoStep_cfg h fun _ _ => portCommit_cfg
  case xw => exact xwReceiveStep_cfg h

/-- A transmitted byte, by the engine's position; at a receive position the answer is a fault. -/
theorem transmitStep_cfg (h : transmitStep s = .next t) : t.cfg = s.cfg := by
  cases heng : s.eng <;> simp only [transmitStep, heng, reduceCtorEq] at h
  case rdLenTx => exact rdLenStep_cfg h
  case rdDataTx => exact rdDataStep_cfg h
  case rdCrcTx => exact trailerStep_cfg h fun _ => rfl
  case pwCrcTx => exact trailerStep_cfg h fun _ => rfl
  case xw => exact xwTransmitStep_cfg h

theorem mainloopIteration_cfg {v : Bool} (h : mainloopIteration v s = .next t) : t.cfg = s.cfg := by
  obtain ⟨u, hu, rfl⟩ := mainloopIteration_eq_next.mp h
  simp [portCheck_cfg hu]

theorem extStep_cfg {y : Byte} {body : ExtBody} (h : extStep y body s = .next t) : t.cfg = s.cfg := by
  obtain ⟨-, rfl⟩ := extStep_eq_next.mp h
  rfl

theorem envStep_cfg {e : EnvEvent} (h : envStep e s = .next t) : t.cfg = s.cfg := by
  cases e with
  | rx b => exact receiveStep_cfg h
  | txDone => exact transmitStep_cfg h
  | abort => cases h; exact busAbort_cfg s
  | iter sample => exact mainloopIteration_cfg (atIdle_eq_next.mp h).2
  | ext y body => exact extStep_cfg (atIdle_eq_next.mp h).2

theorem microStep_cfg (h : microStep s = .next t) : t.cfg = s.cfg := by
  obtain ⟨-, rfl⟩ | ⟨e, es, u, -, hu, rfl⟩ := microStep_eq_next.mp h
  · rfl
  · exact (envStep_cfg hu :)

theorem serve_cfg {es : List EnvEvent} (h : serve es s = .next t) : t.cfg = s.cfg :=
  serve_induction (P := fun u => u.cfg = s.cfg) (Q := fun u => u.cfg = s.cfg)
    (busy := fun _ _ _ hP he _ => (envStep_cfg he).trans hP)
    (ends := fun _ _ _ hP he _ => (envStep_cfg he).trans hP)
    (waits := fun _ hP => hP) (env := fun _ _ hQ => hQ) rfl h

theorem exec_cfg {i : Instr} (h : exec i s = .next t) : t.cfg = s.cfg := by
  rw [exec_eq_transact] at h
  exact serve_cfg h

/-- Settles O11: the step is a whole transaction, which serves a script one event at a time, or a single event, and no
event writes a parameter. -/
theorem noStepChangesTheConfiguration : Obligations.NoStepChangesTheConfiguration := by
  intro s t h
  obtain ⟨i, rest, -, -, h⟩ | ⟨-, h⟩ := step_eq_next.mp h
  · exact (exec_cfg h :)
  · exact microStep_cfg h

end Sys2Proof.Machine

/-! PROOFS. Packed bits and the modes of a flags byte (spec/20_memory.md R77, spec/30_encoding.md R101, R102, R105, R107).
The bits of a packing are read once, for any predicate on ports; the level bitmap and the alert fill are packings of two
such predicates. -/

namespace Sys2Proof.Machine

/-! ### Packing -/

theorem getLsbD_bitAt (v : Bool) {k j : Nat} (hj : j < 8) : (bitAt v k).getLsbD j = (v && decide (k = j)) := by
  cases v with
  | false => simp [bitAt]
  | true =>
    rw [bitAt, if_pos rfl, BitVec.getLsbD_shiftLeft, BitVec.getLsbD_one, Bool.true_and]
    rcases Nat.lt_trichotomy k j with h | rfl | h
    · simp [show ¬ j < k by omega, show j - k ≠ 0 by omega, show k ≠ j by omega]
    · simp [hj]
    · simp [h, show k ≠ j by omega]

/-- A byte built by setting the bits of a list holds exactly those of them that `q` selects. -/
theorem getLsbD_foldl_bitAt (q : Nat → Bool) {j : Nat} (hj : j < 8) (l : List Nat) (acc : Byte) :
    (l.foldl (fun acc b => acc ||| bitAt (q b) b) acc).getLsbD j =
      (acc.getLsbD j || l.any fun b => q b && decide (b = j)) := by
  induction l generalizing acc with
  | nil => simp
  | cons b l ih => rw [List.foldl_cons, ih, BitVec.getLsbD_or, getLsbD_bitAt _ hj, List.any_cons, Bool.or_assoc]

theorem getLsbD_packByte (p : Nat → Bool) (n j : Nat) {b : Nat} (hb : b < 8) :
    (packByte p n j).getLsbD b = (decide (8 * j + b < n) && p (8 * j + b)) := by
  rw [packByte, getLsbD_foldl_bitAt (fun b => decide (8 * j + b < n) && p (8 * j + b)) hb, Bool.eq_iff_iff]
  simp [hb]

/-- The packing of `n` bits: its length, and what stands at every bit position, the residue included (R77, R105). -/
theorem pack_length_and_bits (p : Nat → Bool) (n : Nat) :
    (pack p n).length = (n + 7) / 8 ∧
      ∀ i, i < 8 * ((n + 7) / 8) → ∃ b : Byte, (pack p n)[i / 8]? = some b ∧
        b.getLsbD (i % 8) = (decide (i < n) && p i) := by
  refine ⟨by simp [pack, ceilDiv8], fun i hi => ⟨packByte p n (i / 8), ?_, ?_⟩⟩
  · have hbyte : i / 8 < ceilDiv8 n := Nat.div_lt_of_lt_mul hi
    simp [pack, hbyte]
  · rw [getLsbD_packByte p n _ (Nat.mod_lt _ (by decide)), Nat.div_add_mod]

/-- Settles O52: the level bitmap packs `CURRENT` of every port. -/
theorem levelBitmapPacksTheLevels : Obligations.LevelBitmapPacksTheLevels :=
  fun s => pack_length_and_bits (fun i => flagCurrent (s.flags i)) s.cfg.nPort

/-- Settles O53: `alert_fill` packs `pending AND ALERT` of every port. -/
theorem alertFillPacksTheAlerts : Obligations.AlertFillPacksTheAlerts :=
  fun s => pack_length_and_bits (fun i => alerting (s.flags i)) s.cfg.nPort

/-! ### The two layouts -/

/-- The level bit is `M0` in layout A and `M1` in layout B (R103). -/
theorem lvl_eq (f : Byte) : lvl f = if flagAlt f then flagM1 f else flagM0 f := by
  unfold lvl lvlBit
  split <;> rfl

/-- The drive bit is `M1` in layout A and `M0` in layout B (R103). -/
theorem drv_eq (f : Byte) : drv f = if flagAlt f then flagM0 f else flagM1 f := by
  unfold drv drvBit
  split <;> rfl

/-- Of the four modes exactly `PULLUP` and `ON` encode 1 (R193). -/
theorem lvl_iff_mode (f : Byte) : lvl f = true ↔ mode f = .pullup ∨ mode f = .on := by
  unfold mode
  cases drv f <;> cases lvl f <;> simp

/-- Settles O41: the layout says which of the two mode bits drives and which is the level. -/
theorem modesOfTheTwoLayouts : Obligations.ModesOfTheTwoLayouts := by
  refine fun f => ⟨?_, lvl_iff_mode f⟩
  unfold mode
  rw [drv_eq, lvl_eq]
  cases flagAlt f <;> cases flagM1 f <;> cases flagM0 f <;> rfl

end Sys2Proof.Machine

/-! PROOFS. The transactions that run to their end (spec/30_encoding.md R94, R97, R98, R106, R112). Each engine position
is run forward once: what it answers when the registers hold what the transaction has written so far. The phases of a
transaction (request, payload, CRC exchange) are runs of those positions, the payload by induction on the bytes left, and
an instruction is its phases one after another. -/

namespace Sys2Proof.Machine

variable {s t u : State}

/-! ### A legal configuration at rest -/

theorem State.AtRest.cfg_wf (h : s.AtRest) : s.cfg.wf = true := by
  have hinv := h.1
  simp only [State.inv, Bool.and_eq_true] at hinv
  exact hinv.1.1.1

/-- At rest there is no transaction state to discard (R40). -/
theorem State.AtRest.endTransaction_eq (h : s.AtRest) : s.endTransaction = s := by
  obtain ⟨hinv, heng⟩ := h
  cases s
  subst heng
  simp only [State.inv, State.registersOk, State.noTransaction, State.noOperands, Bool.and_eq_true,
    Option.isNone_iff_eq_none, List.isEmpty_iff] at hinv
  obtain ⟨-, rfl, ⟨rfl, rfl⟩, ⟨⟨⟨⟨rfl, rfl⟩, rfl⟩, rfl⟩, rfl⟩, rfl⟩ := hinv
  rfl

theorem State.AtRest.buf_eq (h : s.AtRest) : s.buf = [] := by
  rw [← h.endTransaction_eq, State.endTransaction_buf]

/-- What a commit leaves when the transaction is discarded: the state at rest with the ports the commit wrote. -/
theorem State.AtRest.commit_eq (h : s.AtRest) (hframe : t = { s with ports := t.ports }) (env : List EnvEvent)
    (out : List OutEvent) :
    { s.endTransaction with ports := t.ports, env := env, out := out } = { t with env := env, out := out } := by
  rw [h.endTransaction_eq, hframe]

/-- `PORT_TAG` is the port's own tag (R135). -/
theorem lookup_portTag {cfg : Config} (h : cfg.wf = true) : lookup cfg cfg.portTag = some .port := by
  simp only [Config.wf, Config.portTagOk, Bool.and_eq_true, List.all_eq_true, List.mem_range, decide_eq_true_eq] at h
  obtain ⟨⟨⟨-, htag, hlt⟩, -⟩, -⟩ := h
  simpa [lookup] using htag _ hlt

/-- The buffer holds a port write's two bytes and no length above a byte's (R10, R74). -/
theorem maxPayload_bounds {cfg : Config} (h : cfg.wf = true) : 2 ≤ cfg.maxPayload ∧ cfg.maxPayload ≤ 255 := by
  simp only [Config.wf, Config.maxPayloadOk, Bool.and_eq_true, decide_eq_true_eq] at h
  obtain ⟨⟨-, ⟨h2, -⟩, h255⟩, -⟩ := h
  exact ⟨h2, h255⟩

/-- A channel that names a port is not channel 0, and its port exists (R73). -/
theorem namesPort_iff {cfg : Config} {k : Byte} : namesPort cfg k = true ↔ k ≠ 0 ∧ portOf k < cfg.nPort := by
  have hk : k = 0 ↔ k.toNat = 0 := BitVec.toNat_inj.symm
  simp only [namesPort, portOf, Bool.and_eq_true, decide_eq_true_eq, ne_eq, hk]
  omega

/-! ### What a read's capabilities depend on -/

theorem readLength_congr (hcfg : u.cfg = s.cfg) (hext : u.ext = s.ext) (y c : Byte) :
    readLength u y c = readLength s y c := by
  simp only [readLength, portReadLength, extBody, hcfg, hext]

theorem readPayload_congr (hcfg : u.cfg = s.cfg) (hports : u.ports = s.ports) (hext : u.ext = s.ext) (y c : Byte) :
    readPayload u y c = readPayload s y c := by
  simp only [readPayload, portRead, levelBitmap, readPort, State.flags, extBody, hcfg, hports, hext]

/-- `read_done` writes the same ports from states that agree on the configuration and the ports. -/
theorem readDone_congr {y c : Byte} (h : readDone y c s = .ok t) (hcfg : u.cfg = s.cfg) (hports : u.ports = s.ports) :
    readDone y c u = .ok { u with ports := t.ports } := by
  have hflags : u.flags (portOf c) = s.flags (portOf c) := congrArg (Memory.read · _) hports
  rw [readDone_eq_ok, portReadDone_eq_ok, ← hcfg] at h
  obtain ⟨hl, ⟨hc, ht⟩ | ⟨hc, hlt, ht⟩⟩ | ⟨hl, ht⟩ := h
  · have hu : t.ports = u.ports := by rw [ht, hports]
    exact readDone_eq_ok.mpr (.inl ⟨hl, portReadDone_eq_ok.mpr (.inl ⟨hc, by rw [hu]⟩)⟩)
  · have hu : t.ports = (u.setFlags (portOf c) (deliveredFlags (u.flags (portOf c)))).ports := by
      rw [ht, State.setFlags_ports, State.setFlags_ports, hports, hflags]
    exact readDone_eq_ok.mpr (.inl ⟨hl, portReadDone_eq_ok.mpr (.inr ⟨hc, hlt, by rw [hu]; rfl⟩)⟩)
  · have hu : t.ports = u.ports := by rw [ht, hports]
    exact readDone_eq_ok.mpr (.inr ⟨hl, by rw [hu]⟩)

/-- Where `read` gives a payload, `read_done` has a port to act on or nothing to do. -/
theorem exists_readDone {y c : Byte} {bytes : List Byte} (h : readPayload s y c = .ok bytes) :
    ∃ t, readDone y c s = .ok t := by
  by_cases hl : lookup s.cfg y = some .port
  · by_cases hc : c = 0
    · exact ⟨s, readDone_eq_ok.mpr (.inl ⟨hl, portReadDone_eq_ok.mpr (.inl ⟨hc, rfl⟩)⟩)⟩
    · have hlt : portOf c < s.cfg.nPort := by
        by_contra hge
        simp only [readPayload, hl, portRead, readPort, if_neg hc, if_neg hge, reduceCtorEq] at h
      exact ⟨_, readDone_eq_ok.mpr (.inl ⟨hl, portReadDone_eq_ok.mpr (.inr ⟨hc, hlt, rfl⟩)⟩)⟩
  · exact ⟨s, readDone_eq_ok.mpr (.inr ⟨hl, rfl⟩)⟩

/-- A tag whose `read_length` answers is in the registry (R131). -/
theorem lookup_isSome_of_readLength {y c : Byte} {n : Nat} (h : readLength s y c = .ok n) :
    (lookup s.cfg y).isSome = true := by
  cases hl : lookup s.cfg y with
  | none => simp [readLength, hl] at h
  | some impl => rfl

/-! ### Which handler a position runs (R32) -/

theorem receiveStep_rdTag (h : s.eng = .rdTag) (b : Byte) : receiveStep b s = rdTagStep b s := by simp [receiveStep, h]
theorem receiveStep_rdChan (h : s.eng = .rdChan) (b : Byte) : receiveStep b s = rdChanStep b s := by
  simp [receiveStep, h]
theorem receiveStep_wrTag (h : s.eng = .wrTag) (b : Byte) : receiveStep b s = wrTagStep b s := by simp [receiveStep, h]
theorem receiveStep_pwChan (h : s.eng = .pwChan) (b : Byte) : receiveStep b s = pwChanStep b s := by
  simp [receiveStep, h]
theorem receiveStep_pwLen (h : s.eng = .pwLen) (b : Byte) : receiveStep b s = pwLenStep b s := by simp [receiveStep, h]
theorem receiveStep_pwData (h : s.eng = .pwData) (b : Byte) : receiveStep b s = pwDataStep b s := by
  simp [receiveStep, h]
theorem transmitStep_rdLenTx (h : s.eng = .rdLenTx) : transmitStep s = rdLenStep s := by simp [transmitStep, h]
theorem transmitStep_rdDataTx (h : s.eng = .rdDataTx) : transmitStep s = rdDataStep s := by simp [transmitStep, h]

/-! ### The engine positions, forward -/

theorem envStep_readCode (heng : s.eng = .idle) :
    envStep (.rx 0xF2) s = .next { s with crc := some (accumulate s.cfg.crcAlgo 0 0xF2), eng := .rdTag } := by
  simp [envStep, receiveStep, heng, dispatchStep_eq]

theorem envStep_writeCode (heng : s.eng = .idle) :
    envStep (.rx 0xF4) s = .next { s with crc := some (accumulate s.cfg.crcAlgo 0 0xF4), eng := .wrTag } := by
  simp [envStep, receiveStep, heng, dispatchStep_eq]

theorem envStep_rdTag {y : Byte} {crc : Word} (heng : s.eng = .rdTag) (hcrc : s.crc = some crc)
    (hy : (lookup s.cfg y).isSome = true) :
    envStep (.rx y) s = .next { s.folded y crc with tag := some y, eng := .rdChan } := by
  obtain ⟨impl, hy⟩ := Option.isSome_iff_exists.mp hy
  exact (receiveStep_rdTag heng y).trans (foldByte_eq_next.mpr ⟨crc, hcrc, by simp [hy]⟩)

theorem envStep_rdChan {y c : Byte} {crc : Word} {n : Nat} (heng : s.eng = .rdChan) (hcrc : s.crc = some crc)
    (htag : s.tag = some y) (hn : readLength s y c = .ok n) (hcheck : checkLength s.cfg n = none) :
    envStep (.rx c) s =
      .next { s.folded c crc with chan := some c, len := some (BitVec.ofNat 8 n), eng := .rdLenTx } :=
  (receiveStep_rdChan heng c).trans <| foldByte_eq_next.mpr ⟨crc, hcrc, need_eq_next.mpr ⟨y, htag,
    orAbort_eq_next.mpr (.inl ⟨n, (readLength_congr rfl rfl y c).trans hn, by simp only [hcheck]⟩)⟩⟩

theorem envStep_rdLenTx {y c n : Byte} {crc : Word} {bytes : List Byte} (heng : s.eng = .rdLenTx)
    (hcrc : s.crc = some crc) (htag : s.tag = some y) (hchan : s.chan = some c) (hlen : s.len = some n)
    (hbytes : readPayload s y c = .ok bytes) (hmax : bytes.length ≤ s.cfg.maxPayload) :
    envStep .txDone s =
      .next { (s.emit (.tx n)).folded n crc with buf := bytes, idx := some 0, eng := .rdDataTx } :=
  (transmitStep_rdLenTx heng).trans <| need_eq_next.mpr ⟨n, hlen, foldByte_eq_next.mpr ⟨crc, hcrc,
    need_eq_next.mpr ⟨y, htag, need_eq_next.mpr ⟨c, hchan, orAbort_eq_next.mpr
      (.inl ⟨bytes, (readPayload_congr rfl rfl rfl y c).trans hbytes, fillBuf_eq_next.mpr ⟨hmax, rfl⟩⟩)⟩⟩⟩⟩

theorem envStep_rdDataTx {i n b : Byte} {crc : Word} (heng : s.eng = .rdDataTx) (hcrc : s.crc = some crc)
    (hidx : s.idx = some i) (hlen : s.len = some n) (hlt : i.toNat < n.toNat) (hb : s.buf[i.toNat]? = some b) :
    envStep .txDone s = .next
      (if i + 1 = n then { (s.emit (.tx b)).folded b crc with idx := some 0, eng := .rdCrcTx }
        else { (s.emit (.tx b)).folded b crc with idx := some (i + 1) }) :=
  (transmitStep_rdDataTx heng).trans <| need_eq_next.mpr ⟨i, hidx, readBuf_eq_next.mpr ⟨n, b, hlen, hlt, hb,
    need_eq_next.mpr ⟨n, hlen, foldByte_eq_next.mpr ⟨crc, hcrc, by split <;> rfl⟩⟩⟩⟩

theorem envStep_wrTag_port {y : Byte} {crc : Word} (heng : s.eng = .wrTag) (hcrc : s.crc = some crc)
    (hy : lookup s.cfg y = some .port) :
    envStep (.rx y) s = .next { s.folded y crc with tag := some y, eng := .pwChan } :=
  (receiveStep_wrTag heng y).trans (foldByte_eq_next.mpr ⟨crc, hcrc, by simp only [hy]⟩)

theorem envStep_pwChan {k : Byte} {crc : Word} (heng : s.eng = .pwChan) (hcrc : s.crc = some crc)
    (hk : namesPort s.cfg k = true) :
    envStep (.rx k) s = .next { s.folded k crc with chan := some k, eng := .pwLen } :=
  (receiveStep_pwChan heng k).trans (foldByte_eq_next.mpr ⟨crc, hcrc, if_pos hk⟩)

theorem envStep_pwLen_ok {n : Byte} {crc : Word} (heng : s.eng = .pwLen) (hcrc : s.crc = some crc)
    (hn : portWriteLenOk n = true) :
    envStep (.rx n) s = .next { s.folded n crc with len := some n, idx := some 0, eng := .pwData } :=
  (receiveStep_pwLen heng n).trans (foldByte_eq_next.mpr ⟨crc, hcrc, if_pos hn⟩)

theorem envStep_pwLen_bad {n : Byte} {crc : Word} (heng : s.eng = .pwLen) (hcrc : s.crc = some crc)
    (hn : ¬ portWriteLenOk n = true) :
    envStep (.rx n) s = .next (raise .badLength { s.folded n crc with len := some n }) :=
  (receiveStep_pwLen heng n).trans (foldByte_eq_next.mpr ⟨crc, hcrc, if_neg hn⟩)

theorem envStep_pwData {d i n : Byte} {crc : Word} (heng : s.eng = .pwData) (hcrc : s.crc = some crc)
    (hidx : s.idx = some i) (hlen : s.len = some n) (hi : i.toNat = s.buf.length) (hmax : i.toNat < s.cfg.maxPayload) :
    envStep (.rx d) s = .next
      (if i + 1 = n then { s.folded d crc with buf := s.buf ++ [d], idx := some 0, eng := .pwCrcTx }
        else { s.folded d crc with buf := s.buf ++ [d], idx := some (i + 1) }) :=
  (receiveStep_pwData heng d).trans <| foldByte_eq_next.mpr ⟨crc, hcrc, need_eq_next.mpr ⟨i, hidx,
    need_eq_next.mpr ⟨n, hlen, writeBuf_eq_next.mpr ⟨hi, hmax, by split <;> rfl⟩⟩⟩⟩

/-! ### The CRC exchange (R124, R125) -/

theorem trailerStep_low {after : State → State} {crc : Word} (hcrc : s.crc = some crc) (hidx : s.idx = some 0) :
    trailerStep after s = .next { s.emit (.tx (lowByte (trailer crc))) with idx := some 1 } :=
  trailerStep_eq_next.mpr ⟨crc, 0, hcrc, hidx, rfl⟩

theorem trailerStep_high {after : State → State} {crc : Word} (hcrc : s.crc = some crc) (hidx : s.idx = some 1) :
    trailerStep after s = .next (after { s.emit (.tx (highByte (trailer crc))) with idx := some 0 }) :=
  trailerStep_eq_next.mpr ⟨crc, 1, hcrc, hidx, rfl⟩

theorem echoStep_low {commit : State → Result State} {b : Byte} (hidx : s.idx = some 0) :
    echoStep commit b s = .next { s with echoLo := some b, idx := some 1 } :=
  echoStep_eq_next.mpr ⟨0, hidx, .inl ⟨rfl, rfl⟩⟩

/-- `p` and `q` are the two positions of one CRC exchange: `p` sends the trailer, `q` receives the echo and then commits
with `commit`. -/
structure ExchangeAt (p q : Eng) (commit : State → Result State) : Prop where
  sends : ∀ {u : State}, u.eng = p → transmitStep u = trailerStep (fun u => { u with eng := q }) u
  receives : ∀ {u : State} (b : Byte), u.eng = q → receiveStep b u = echoStep commit b u
  sends_busy : p ≠ .idle
  receives_busy : q ≠ .idle

theorem exchangeAt_read : ExchangeAt .rdCrcTx .rdEchoRx readCommit where
  sends h := by simp [transmitStep, h, rdCrcStep]
  receives b h := by simp [receiveStep, h, rdEchoStep]
  sends_busy := nofun
  receives_busy := nofun

theorem exchangeAt_portWrite : ExchangeAt .pwCrcTx .pwEchoRx portCommit where
  sends h := by simp [transmitStep, h, pwCrcStep]
  receives b h := by simp [receiveStep, h, pwEchoStep]
  sends_busy := nofun
  receives_busy := nofun

/-- The exchange up to the low echo byte: the trailer has gone out. What the high echo byte does depends on it. -/
theorem serve_exchange {p q : Eng} {crc e : Word} {commit : State → Result State} {es : List EnvEvent}
    (hx : ExchangeAt p q commit) (heng : s.eng = p) (hcrc : s.crc = some crc) (hidx : s.idx = some 0) :
    serve (echoAnswers e ++ es) s = serve (.rx (highByte e) :: es)
      { s with eng := q, idx := some 1, echoLo := some (lowByte e), out := s.out ++ trailerOut crc } := by
  refine .trans (serve_cons_busy (.trans (hx.sends heng) (trailerStep_low hcrc hidx)) (heng ▸ hx.sends_busy)) ?_
  refine .trans (serve_cons_busy (.trans (hx.sends heng) (trailerStep_high hcrc rfl)) hx.receives_busy) ?_
  refine .trans (serve_cons_busy (.trans (hx.receives _ rfl) (echoStep_low rfl)) hx.receives_busy) ?_
  simp [State.emit, trailerOut]

/-- A correct echo commits (R159, R178): the whole exchange, where the commit ends the transaction. -/
theorem serve_exchange_commit {p q : Eng} {crc : Word} {commit : State → Result State} {es : List EnvEvent}
    (hx : ExchangeAt p q commit) (heng : s.eng = p) (hcrc : s.crc = some crc) (hidx : s.idx = some 0)
    (hcommit : commit { s with
      eng := q, idx := some 1, echoLo := some (lowByte (trailer crc)), echoHi := some (highByte (trailer crc)),
      out := s.out ++ trailerOut crc } = .next t) (ht : t.eng = .idle) :
    serve (echoAnswers (trailer crc) ++ es) s = .next { t with env := es } := by
  rw [serve_exchange hx heng hcrc hidx]
  refine serve_cons_idle (.trans (hx.receives _ rfl) (echoStep_eq_next.mpr ⟨1, rfl, .inr ⟨by decide, ?_⟩⟩)) ht
  exact ⟨lowByte (trailer crc), crc, rfl, hcrc, .inr ⟨echoWord_bytes _, hcommit⟩⟩

/-! ### The cursor of a payload -/

/-- While `IDX` is below `LEN` it counts the bytes done, and its successor is `LEN` exactly after the last byte. -/
theorem idx_ofNat {i : Nat} {n : Byte} (h : i < n.toNat) :
    (BitVec.ofNat 8 i).toNat = i ∧ (BitVec.ofNat 8 i + 1 = n ↔ i + 1 = n.toNat) := by
  have hn := n.isLt
  have h1 : (1 : Byte).toNat = 1 := rfl
  rw [← BitVec.toNat_inj, BitVec.toNat_add, BitVec.toNat_ofNat, h1]
  omega

/-! ### The phases of a generic read -/

/-- The request of a read whose length is accepted (R151 to R153). -/
theorem serve_readRequest {y c : Byte} {n : Nat} {es : List EnvEvent} (heng : s.eng = .idle)
    (hn : readLength s y c = .ok n) (hcheck : checkLength s.cfg n = none) :
    serve (.rx 0xF2 :: .rx y :: .rx c :: es) s = serve es { s with
      crc := some (crcOf s.cfg.crcAlgo 0 [0xF2, y, c]), tag := some y, chan := some c
      len := some (BitVec.ofNat 8 n), eng := .rdLenTx } :=
  .trans (serve_cons_busy (envStep_readCode heng) nofun) <|
  .trans (serve_cons_busy (envStep_rdTag rfl rfl (lookup_isSome_of_readLength hn)) nofun) <|
  serve_cons_busy (envStep_rdChan rfl rfl rfl ((readLength_congr rfl rfl y c).trans hn) hcheck) nofun

/-- One byte of the payload of a read, with the bytes before it sent: only the last one ends the payload (R156). -/
theorem envStep_rdDataTx_payload {sent left : List Byte} {b n : Byte} {crc : Word} (heng : s.eng = .rdDataTx)
    (hcrc : s.crc = some crc) (hlen : s.len = some n) (hbuf : s.buf = sent ++ b :: left)
    (hn : n.toNat = sent.length + 1 + left.length) (hidx : s.idx = some (BitVec.ofNat 8 sent.length)) :
    envStep .txDone s = .next
      (if left = [] then { (s.emit (.tx b)).folded b crc with idx := some 0, eng := .rdCrcTx }
        else { (s.emit (.tx b)).folded b crc with idx := some (BitVec.ofNat 8 (sent.length + 1)) }) := by
  have hlt : sent.length < n.toNat := by omega
  obtain ⟨htoNat, hlast⟩ := idx_ofNat hlt
  have hleft : BitVec.ofNat 8 sent.length + 1 = n ↔ left = [] := by
    rw [hlast, ← List.length_eq_zero_iff]
    omega
  rw [envStep_rdDataTx heng hcrc hidx hlen (by rwa [htoNat]) (b := b) (by simp [htoNat, hbuf]), BitVec.ofNat_add]
  simp only [hleft]
  rfl

/-- The payload of a read, from any position in it: the bytes not yet sent go out in order and are folded (R156). -/
theorem serve_readData {n : Byte} {es : List EnvEvent} {left : List Byte} :
    ∀ {sent : List Byte} {b : Byte} {crc : Word} {s : State}, s.eng = .rdDataTx → s.crc = some crc → s.len = some n →
      s.buf = sent ++ b :: left → n.toNat = sent.length + 1 + left.length →
      s.idx = some (BitVec.ofNat 8 sent.length) →
      serve (.txDone :: (List.replicate left.length .txDone ++ es)) s = serve es { s with
        crc := some (crcOf s.cfg.crcAlgo crc (b :: left)), idx := some 0, eng := .rdCrcTx
        out := s.out ++ (b :: left).map .tx } := by
  induction left with
  | nil =>
    intro sent b crc s heng hcrc hlen hbuf hn hidx
    exact serve_cons_busy (envStep_rdDataTx_payload heng hcrc hlen hbuf hn hidx) nofun
  | cons d left ih =>
    intro sent b crc s heng hcrc hlen hbuf hn hidx
    have hstep := envStep_rdDataTx_payload heng hcrc hlen hbuf hn hidx
    rw [if_neg (List.cons_ne_nil d left)] at hstep
    have hleft : n.toNat = (sent ++ [b]).length + 1 + left.length := by
      simp only [List.length_append, List.length_cons, List.length_nil] at hn ⊢
      omega
    refine .trans (serve_cons_busy hstep (heng ▸ nofun)) ?_
    refine .trans (ih (sent := sent ++ [b]) (b := d) heng rfl hlen (by simp [hbuf]) hleft (by simp)) ?_
    simp [State.emit, crcOf]

/-- A read that `read_length` and `read` accept, from its function code to the position before the CRC exchange: the
length and the payload have gone out and are folded (R151 to R156). -/
theorem serve_readToTrailer {y c : Byte} {bytes : List Byte} {es : List EnvEvent} (hrest : s.AtRest)
    (hlength : readLength s y c = .ok bytes.length) (hbytes : readPayload s y c = .ok bytes) (hpos : 1 ≤ bytes.length)
    (hmax : bytes.length ≤ s.cfg.maxPayload) :
    serve (.rx 0xF2 :: .rx y :: .rx c :: (List.replicate (bytes.length + 1) .txDone ++ es)) s = serve es { s with
      crc := some (readCrc s.cfg y c bytes), tag := some y, chan := some c, len := some (BitVec.ofNat 8 bytes.length)
      buf := bytes, idx := some 0, eng := .rdCrcTx, out := s.out ++ responseOut bytes } := by
  have hcheck : checkLength s.cfg bytes.length = none := by
    rw [checkLength, if_neg (by omega), if_neg (by omega)]
  have h255 : bytes.length ≤ 255 := hmax.trans (maxPayload_bounds hrest.cfg_wf).2
  cases bytes with
  | nil => cases hpos
  | cons b left =>
    have hn : (BitVec.ofNat 8 (b :: left).length).toNat = 0 + 1 + left.length := by
      rw [BitVec.toNat_ofNat, Nat.mod_eq_of_lt (by omega), List.length_cons]
      omega
    rw [serve_readRequest hrest.2 hlength hcheck, List.replicate_succ, List.cons_append]
    refine .trans (serve_cons_busy (envStep_rdLenTx rfl rfl rfl rfl rfl
      ((readPayload_congr rfl rfl rfl y c).trans hbytes) hmax) nofun) ?_
    refine .trans (serve_readData (sent := []) rfl rfl rfl rfl hn rfl) ?_
    simp [State.emit, readCrc, crcOf, responseOut]

/-- The completion of a read, with the transaction's registers and what went out before it (R159, R160). -/
theorem readCommit_of_readDone {y c : Byte} (htag : u.tag = some y) (hchan : u.chan = some c) (hcfg : u.cfg = s.cfg)
    (hports : u.ports = s.ports) (hdone : readDone y c s = .ok t) :
    readCommit u = .next ({ u with ports := t.ports }.emit (.readDone y c)).endTransaction :=
  need_eq_next.mpr ⟨y, htag, need_eq_next.mpr ⟨c, hchan,
    orFault_eq_next.mpr ⟨_, readDone_congr hdone hcfg hports, rfl⟩⟩⟩

/-- Settles O24: the read runs to its trailer, and the correct echo commits it, which is `read_done` once. -/
theorem genericReadCompletes : Obligations.GenericReadCompletes := by
  intro s y c bytes rest hrest hlength hbytes hpos hmax henv
  obtain ⟨t, hdone⟩ := exists_readDone hbytes
  have hrun : exec (.genericRead y c) s = serve (.rx 0xF2 :: .rx y :: .rx c :: s.env) s := rfl
  refine ⟨t, hdone, ?_⟩
  rw [hrun, henv, readAnswers, List.append_assoc, serve_readToTrailer hrest hlength hbytes hpos hmax]
  refine .trans (serve_exchange_commit exchangeAt_read rfl rfl rfl
    (readCommit_of_readDone (s := s) rfl rfl rfl rfl hdone) rfl) ?_
  exact congrArg Host.Outcome.next (hrest.commit_eq (readDone_frame hdone).1 _ _)

/-- Settles O29: a status read is a generic read of the port whose payload is the flags byte. -/
theorem preadStatusCompletes : Obligations.PreadStatusCompletes := by
  intro s k rest f crc hrest hk henv
  obtain ⟨hk0, hlt⟩ := namesPort_iff.mp hk
  have hport := lookup_portTag hrest.cfg_wf
  have hlength : readLength s s.cfg.portTag k = .ok [f].length := by
    simp only [readLength, hport, portReadLength, if_neg hk0, if_pos hk, List.length_singleton]
  have hbytes : readPayload s s.cfg.portTag k = .ok [f] := by
    simp only [readPayload, hport, portRead, if_neg hk0, readPort_eq_ok.mpr ⟨hlt, rfl⟩]
    rfl
  have hdone : readDone s.cfg.portTag k s = .ok (s.setFlags (portOf k) (deliveredFlags f)) :=
    readDone_eq_ok.mpr (.inl ⟨hport, portReadDone_eq_ok.mpr (.inr ⟨hk0, hlt, rfl⟩)⟩)
  have hmax : [f].length ≤ s.cfg.maxPayload := Nat.le_of_succ_le (maxPayload_bounds hrest.cfg_wf).1
  obtain ⟨t, ht, hexec⟩ := genericReadCompletes s s.cfg.portTag k [f] rest hrest hlength hbytes le_rfl hmax henv
  obtain rfl := Except.ok.inj (hdone.symm.trans ht)
  exact hexec

/-! ### The phases of a port write -/

/-- The request of a port write up to its channel, where the channel names a port (R171, R174). -/
theorem serve_portWriteChannel {k : Byte} {es : List EnvEvent} (hrest : s.AtRest) (hk : namesPort s.cfg k = true) :
    serve (.rx 0xF4 :: .rx s.cfg.portTag :: .rx k :: es) s = serve es { s with
      crc := some (crcOf s.cfg.crcAlgo 0 [0xF4, s.cfg.portTag, k]), tag := some s.cfg.portTag, chan := some k
      eng := .pwLen } :=
  .trans (serve_cons_busy (envStep_writeCode hrest.2) nofun) <|
  .trans (serve_cons_busy (envStep_wrTag_port rfl rfl (lookup_portTag hrest.cfg_wf)) nofun) <|
  serve_cons_busy (envStep_pwChan rfl rfl hk) nofun

/-- Settles O34: the length byte is the last of the request, and there the write aborts. -/
theorem portWriteBadLengthAborts : Obligations.PortWriteBadLengthAborts := by
  intro s k n hrest hk h1 h2
  have hbad : ¬ portWriteLenOk n = true := by simpa [portWriteLenOk] using ⟨h1, h2⟩
  have hrun : exec (.portWriteBadLength k n) s =
      serve (.rx 0xF4 :: .rx s.cfg.portTag :: .rx k :: .rx n :: s.env) s := rfl
  rw [hrun, serve_portWriteChannel hrest hk]
  refine .trans (serve_cons_idle (envStep_pwLen_bad rfl rfl hbad) rfl) ?_
  exact congrArg Host.Outcome.next (hrest.commit_eq (t := s) rfl _ _)

/-- One payload byte of a port write: only the last one ends the payload (R176). -/
theorem envStep_pwData_payload {left : List Byte} {d n : Byte} {crc : Word} (heng : s.eng = .pwData)
    (hcrc : s.crc = some crc) (hlen : s.len = some n) (hn : n.toNat = s.buf.length + 1 + left.length)
    (hmax : n.toNat ≤ s.cfg.maxPayload) (hidx : s.idx = some (BitVec.ofNat 8 s.buf.length)) :
    envStep (.rx d) s = .next
      (if left = [] then { s.folded d crc with buf := s.buf ++ [d], idx := some 0, eng := .pwCrcTx }
        else { s.folded d crc with buf := s.buf ++ [d], idx := some (BitVec.ofNat 8 (s.buf.length + 1)) }) := by
  have hlt : s.buf.length < n.toNat := by omega
  obtain ⟨htoNat, hlast⟩ := idx_ofNat hlt
  have hleft : BitVec.ofNat 8 s.buf.length + 1 = n ↔ left = [] := by
    rw [hlast, ← List.length_eq_zero_iff]
    omega
  rw [envStep_pwData heng hcrc hidx hlen htoNat (by omega), BitVec.ofNat_add]
  simp only [hleft]
  rfl

/-- The payload of a port write, from any position in it: the bytes go to the buffer in order and are folded (R176). -/
theorem serve_portWriteData {n : Byte} {es : List EnvEvent} {left : List Byte} :
    ∀ {d : Byte} {crc : Word} {s : State}, s.eng = .pwData → s.crc = some crc → s.len = some n →
      n.toNat = s.buf.length + 1 + left.length → n.toNat ≤ s.cfg.maxPayload →
      s.idx = some (BitVec.ofNat 8 s.buf.length) →
      serve (.rx d :: (left.map .rx ++ es)) s = serve es { s with
        crc := some (crcOf s.cfg.crcAlgo crc (d :: left)), buf := s.buf ++ d :: left, idx := some 0
        eng := .pwCrcTx } := by
  induction left with
  | nil =>
    intro d crc s heng hcrc hlen hn hmax hidx
    exact serve_cons_busy (envStep_pwData_payload heng hcrc hlen hn hmax hidx) nofun
  | cons d' left ih =>
    intro d crc s heng hcrc hlen hn hmax hidx
    have hstep := envStep_pwData_payload (d := d) heng hcrc hlen hn hmax hidx
    rw [if_neg (List.cons_ne_nil d' left)] at hstep
    have hleft : n.toNat = (s.buf ++ [d]).length + 1 + left.length := by
      simp only [List.length_append, List.length_cons, List.length_nil] at hn ⊢
      omega
    refine .trans (serve_cons_busy hstep (heng ▸ nofun)) ?_
    refine .trans (ih (d := d') heng rfl hlen hleft hmax (by simp)) ?_
    simp [crcOf]

/-- A port write of a legal length to a port that exists, from its function code to the position before the CRC
exchange (R171 to R176). -/
theorem serve_portWriteToTrailer {k n d : Byte} {left : List Byte} {es : List EnvEvent} (hrest : s.AtRest)
    (hk : namesPort s.cfg k = true) (hok : portWriteLenOk n = true) (hn : n.toNat = 1 + left.length) :
    serve (.rx 0xF4 :: .rx s.cfg.portTag :: .rx k :: .rx n :: .rx d :: (left.map .rx ++ es)) s = serve es { s with
      crc := some (portWriteCrc s.cfg k n (d :: left)), tag := some s.cfg.portTag, chan := some k, len := some n
      buf := d :: left, idx := some 0, eng := .pwCrcTx } := by
  have hmax : n.toNat ≤ s.cfg.maxPayload := by
    have h2 := (maxPayload_bounds hrest.cfg_wf).1
    obtain rfl | rfl : n = 1 ∨ n = 2 := by simpa [portWriteLenOk] using hok
    · exact Nat.le_of_succ_le h2
    · exact h2
  have hbuf := hrest.buf_eq
  rw [serve_portWriteChannel hrest hk]
  refine .trans (serve_cons_busy (envStep_pwLen_ok rfl rfl hok) nofun) ?_
  refine .trans (serve_portWriteData rfl rfl rfl (by simpa [hbuf] using hn) hmax (by simp [hbuf])) ?_
  simp [hbuf, portWriteCrc, crcOf]

/-! ### The commit of a port write -/

theorem portSet_frame {i : Nat} {v : Bool} (h : portSet i v s = .ok t) : t = { s with ports := t.ports } := by
  obtain ⟨-, rfl⟩ := portSet_eq_ok.mp h
  split <;> rfl

theorem portMaskedWrite_frame {i : Nat} {v m : Byte} (h : portMaskedWrite i v m s = .ok t) :
    t = { s with ports := t.ports } := by
  obtain ⟨-, rfl⟩ := portMaskedWrite_eq_ok.mp h
  rfl

theorem portSet_congr {i : Nat} {v : Bool} (h : portSet i v s = .ok t) (hcfg : u.cfg = s.cfg)
    (hports : u.ports = s.ports) : portSet i v u = .ok { u with ports := t.ports } := by
  have hflags : u.flags i = s.flags i := congrArg (Memory.read · _) hports
  obtain ⟨hlt, rfl⟩ := portSet_eq_ok.mp h
  refine portSet_eq_ok.mpr ⟨hcfg ▸ hlt, ?_⟩
  rw [hflags]
  split
  · rw [← hports]
  · rw [State.setFlags_ports, ← hports]
    rfl

theorem portMaskedWrite_congr {i : Nat} {v m : Byte} (h : portMaskedWrite i v m s = .ok t) (hcfg : u.cfg = s.cfg)
    (hports : u.ports = s.ports) : portMaskedWrite i v m u = .ok { u with ports := t.ports } := by
  have hflags : u.flags i = s.flags i := congrArg (Memory.read · _) hports
  obtain ⟨hlt, rfl⟩ := portMaskedWrite_eq_ok.mp h
  refine portMaskedWrite_eq_ok.mpr ⟨hcfg ▸ hlt, ?_⟩
  rw [hflags, State.setFlags_ports, ← hports]
  rfl

/-- The commit of a one-byte write is `port_set` (R179). -/
theorem portCommit_set {y k v : Byte} (htag : u.tag = some y) (hchan : u.chan = some k) (hlen : u.len = some 1)
    (hbuf : u.buf = [v]) (hset : portSet (portOf k) (logicalValue v) u = .ok t) :
    portCommit u = .next (t.emit (.writeDone y)).endTransaction :=
  need_eq_next.mpr ⟨y, htag, need_eq_next.mpr ⟨k, hchan, need_eq_next.mpr ⟨1, hlen, readBuf_eq_next.mpr
    ⟨1, v, hlen, by decide, by rw [hbuf]; rfl, orFault_eq_next.mpr ⟨t, hset, rfl⟩⟩⟩⟩⟩

/-- The commit of a two-byte write is the masked write (R180). -/
theorem portCommit_maskedWrite {y k v m : Byte} (htag : u.tag = some y) (hchan : u.chan = some k)
    (hlen : u.len = some 2) (hbuf : u.buf = [v, m]) (hwrite : portMaskedWrite (portOf k) v m u = .ok t) :
    portCommit u = .next (t.emit (.writeDone y)).endTransaction :=
  need_eq_next.mpr ⟨y, htag, need_eq_next.mpr ⟨k, hchan, need_eq_next.mpr ⟨2, hlen, readBuf_eq_next.mpr
    ⟨2, v, hlen, by decide, by rw [hbuf]; rfl, readBuf_eq_next.mpr
      ⟨2, m, hlen, by decide, by rw [hbuf]; rfl, orFault_eq_next.mpr ⟨t, hwrite, rfl⟩⟩⟩⟩⟩⟩

/-- Settles O31: the write runs to its trailer, and the correct echo commits `port_set`. -/
theorem psetCompletes : Obligations.PsetCompletes := by
  intro s k v rest crc f hrest hk henv
  have hset : portSet (portOf k) (logicalValue v) s = .ok
      (if lvl f = logicalValue v then s else s.setFlags (portOf k) (commandedFlags (logicalValue v) f)) :=
    portSet_eq_ok.mpr ⟨(namesPort_iff.mp hk).2, rfl⟩
  have hrun : exec (.pset k v) s =
      serve (.rx 0xF4 :: .rx s.cfg.portTag :: .rx k :: .rx 1 :: .rx v :: (List.map .rx [] ++ s.env)) s := rfl
  rw [hrun, henv, serve_portWriteToTrailer hrest hk rfl rfl]
  refine .trans (serve_exchange_commit exchangeAt_portWrite rfl rfl rfl
    (portCommit_set rfl rfl rfl rfl (portSet_congr hset rfl rfl)) rfl) ?_
  exact congrArg Host.Outcome.next (hrest.commit_eq (portSet_frame hset) _ _)

/-- Settles O32: the write runs to its trailer, and the correct echo commits the masked write. -/
theorem pflagsCompletes : Obligations.PflagsCompletes := by
  intro s k v m rest crc hrest hk henv
  have hwrite : portMaskedWrite (portOf k) v m s =
      .ok (s.setFlags (portOf k) (maskedFlags v m (s.flags (portOf k)))) :=
    portMaskedWrite_eq_ok.mpr ⟨(namesPort_iff.mp hk).2, rfl⟩
  have hrun : exec (.pflags k v m) s =
      serve (.rx 0xF4 :: .rx s.cfg.portTag :: .rx k :: .rx 2 :: .rx v :: (List.map .rx [m] ++ s.env)) s := rfl
  rw [hrun, henv, serve_portWriteToTrailer hrest hk rfl rfl]
  refine .trans (serve_exchange_commit exchangeAt_portWrite rfl rfl rfl
    (portCommit_maskedWrite rfl rfl rfl rfl (portMaskedWrite_congr hwrite rfl rfl)) rfl) ?_
  exact congrArg Host.Outcome.next (hrest.commit_eq (portMaskedWrite_frame hwrite) _ _)

end Sys2Proof.Machine

/-! PROOFS. The CRC accumulator (spec/40_crc.md R121, R126). The eight rounds are a loop whose body does not read its
counter, and the fold of a sequence is read off its first byte. -/

namespace Sys2Proof.Machine

/-! ### The fold of one byte and of a sequence -/

theorem crcBit_oneWire (c : Word) :
    crcBit .oneWire c = if c.getLsbD 0 then (c >>> 1) ^^^ 0xA001 else c >>> 1 := rfl

theorem crcEnter_oneWire (crc : Word) (b : Byte) : crcEnter .oneWire crc b = crc ^^^ b.setWidth 16 := rfl

/-- The eight rounds of R121, written as a loop over a counter that the body does not read. -/
theorem accumulate_eq_foldl_range (a : CrcAlgo) (crc : Word) (b : Byte) :
    accumulate a crc b = (List.range 8).foldl (fun c _ => crcBit a c) (crcEnter a crc b) := by
  rw [List.foldl_const, List.length_range, accumulate]

@[simp] theorem crcOf_nil (a : CrcAlgo) (crc : Word) : crcOf a crc [] = crc := rfl

@[simp] theorem crcOf_cons (a : CrcAlgo) (crc : Word) (b : Byte) (bytes : List Byte) :
    crcOf a crc (b :: bytes) = crcOf a (accumulate a crc b) bytes := rfl

/-- Settles O20: under the default algorithm the round and the entry of the byte are R121's, and so is the loop. -/
theorem accumulateIsTheOneWireFold : Obligations.AccumulateIsTheOneWireFold := by
  refine ⟨fun crc b => ?loop, ?zero, ?topBit, ?allOnes, ?readCode⟩
  case loop => simp only [accumulate_eq_foldl_range, crcBit_oneWire, crcEnter_oneWire]
  case zero => decide
  case topBit => decide
  case allOnes => decide
  case readCode => decide

theorem crcOf_pair (a : CrcAlgo) (crc : Word) (b₁ b₂ : Byte) :
    crcOf a crc [b₁, b₂] = accumulate a (accumulate a crc b₁) b₂ := rfl

/-- Settles O21: the fold takes the first byte first, and R126's example distinguishes the two orders. -/
theorem crcDependsOnOrder : Obligations.CrcDependsOnOrder := by
  refine ⟨fun a crc b bytes => ⟨crcOf_cons a crc b bytes, crcOf_nil a crc⟩, ?ascending, ?descending⟩
  case ascending =>
    calc crcOf .oneWire 0 [0x01, 0x02]
      _ = accumulate .oneWire (accumulate .oneWire 0 0x01) 0x02 := crcOf_pair ..
      _ = accumulate .oneWire 0xC0C1 0x02 := congrArg (accumulate .oneWire · 0x02) (by decide)
      _ = 0x5180 := by decide
  case descending =>
    calc crcOf .oneWire 0 [0x02, 0x01]
      _ = accumulate .oneWire (accumulate .oneWire 0 0x02) 0x01 := crcOf_pair ..
      _ = accumulate .oneWire 0xC181 0x01 := congrArg (accumulate .oneWire · 0x01) (by decide)
      _ = 0xA0C0 := by decide

end Sys2Proof.Machine

/-! PROOFS. The dispatcher on a code that no handler has (spec/41_dispatch_registry.md R140): the request is that one
byte, and the transaction ends with it. -/

namespace Sys2Proof.Machine

variable {s : State}

theorem receiveStep_idle (h : s.eng = .idle) (b : Byte) : receiveStep b s = dispatchStep b s := by simp [receiveStep, h]

theorem envStep_unknownCode {b : Byte} (heng : s.eng = .idle) (hread : b ≠ 0xF2) (hwrite : b ≠ 0xF4) :
    envStep (.rx b) s =
      .next (raise .unknownFunction ((s.folded b 0).emit (.diag (.unknownFunction b)))) :=
  (receiveStep_idle heng b).trans <| dispatchStep_eq.trans <| (if_neg hread).trans (if_neg hwrite)

/-- A diagnostic and then an abort, when at rest one byte has been folded: the abort discards the accumulator (R254), so
only the record keeps a trace. -/
theorem State.AtRest.raise_diag_eq (hrest : s.AtRest) (b : Byte) (crc : Word) (cause : AbortCause) (d : Diag) :
    raise cause ((s.folded b crc).emit (.diag d)) = { s with out := s.out ++ [.diag d, .aborted cause] } :=
  calc raise cause ((s.folded b crc).emit (.diag d))
    _ = { s.endTransaction with out := s.out ++ [.diag d] ++ [.aborted cause] } := rfl
    _ = { s with out := s.out ++ [.diag d, .aborted cause] } := by
      rw [hrest.endTransaction_eq, List.append_assoc, List.singleton_append]

/-- Settles O40: the code is the whole request, and at it the dispatcher reports and aborts. -/
theorem unknownFunctionAborts : Obligations.UnknownFunctionAborts := by
  intro s b hrest hread hwrite
  have hstep : envStep (.rx b) s =
      .next { s with out := s.out ++ [.diag (.unknownFunction b), .aborted .unknownFunction] } := by
    rw [envStep_unknownCode hrest.2 hread hwrite, hrest.raise_diag_eq]
  calc exec (.unknownFunction b) s
    _ = serve (.rx b :: s.env) s := rfl
    _ = .next { s with out := s.out ++ [.diag (.unknownFunction b), .aborted .unknownFunction] } :=
      serve_cons_idle hstep hrest.2

end Sys2Proof.Machine

/-! PROOFS. The generic read against the sequential program of spec/42_generic_read.md R162. A program's state is the
engine's with the transaction discarded, `u.endTransaction`, so that an abort of either is the same state. Each bus
operation of the program is simulated once, for every next event of the script, a script that ends here included; then
the phases of the read are simulated from the last to the first, each with the rest of the program after it. -/

namespace Sys2Proof.Machine

variable {s u : State}

/-! ### A run against a program -/

/-- What the engine's run `r` owes a program: the program's own result, and where the program has none yet, to wait
inside the transaction at the end of the script (R55). -/
def RunsAs (r : Result State) : Option (Result State) → Prop
  | some r' => r = r'
  | none => ∃ u, r = .next u ∧ u.eng ≠ .idle ∧ u.env = []

theorem runsAs_nil (hbusy : u.eng ≠ .idle) : RunsAs (serve [] u) none := ⟨_, serve_nil u, hbusy, rfl⟩

/-- The run goes on after an event that leaves the transaction in progress. -/
theorem runsAs_cons_busy {t : State} {e : EnvEvent} {es : List EnvEvent} {r : Option (Result State)}
    (h : envStep e u = .next t) (hbusy : t.eng ≠ .idle) (hr : RunsAs (serve es t) r) : RunsAs (serve (e :: es) u) r :=
  serve_cons_busy h hbusy ▸ hr

/-- An event that ends the transaction or stops the machine is the last one served. -/
theorem serve_cons_ends {e : EnvEvent} {es : List EnvEvent} (hends : ∀ t, envStep e u = .next t → t.eng = .idle) :
    serve (e :: es) u = withEnv es (envStep e u) := by
  cases h : envStep e u with
  | next t => exact serve_cons_idle h (hends t h)
  | fault f => exact serve_cons_fault h
  | refused q => simp [serve, h, withEnv]

theorem envStep_abort_busy (hbusy : u.eng ≠ .idle) : envStep .abort u = .next (raise .busFault u) :=
  congrArg Host.Outcome.next (if_neg hbusy)

theorem atIdle_busy (hbusy : u.eng ≠ .idle) (r : Result State) : atIdle u r = .fault .answerMismatch := if_neg hbusy

/-- `RxByte` (R14) at a position that transmits nothing: only a received byte goes on (R60, R252). -/
theorem runsAs_rxByte {es : List EnvEvent} {k : Byte → List EnvEvent → Option (Result State)} (hbusy : u.eng ≠ .idle)
    (hno : transmitStep u = .fault .answerMismatch) (hk : ∀ b es, RunsAs (serve (.rx b :: es) u) (k b es)) :
    RunsAs (serve es u) (rxByte u.endTransaction es k) :=
  match es with
  | [] => runsAs_nil hbusy
  | .rx b :: es => hk b es
  | .txDone :: _ => serve_cons_fault hno
  | .abort :: _ => serve_cons_idle (envStep_abort_busy hbusy) rfl
  | .iter _ :: _ => serve_cons_fault (atIdle_busy hbusy _)
  | .ext _ _ :: _ => serve_cons_fault (atIdle_busy hbusy _)

/-- `TxByte` (R14) at a position that receives nothing: only an accepted transmit goes on (R60, R252). -/
theorem runsAs_txByte {v : Byte} {es : List EnvEvent} {k : State → List EnvEvent → Option (Result State)}
    (hbusy : u.eng ≠ .idle) (hno : ∀ b, receiveStep b u = .fault .answerMismatch)
    (hk : ∀ es, RunsAs (serve (.txDone :: es) u) (k (u.emit (.tx v)).endTransaction es)) :
    RunsAs (serve es u) (txByte v u.endTransaction es k) :=
  match es with
  | [] => runsAs_nil hbusy
  | .rx b :: _ => serve_cons_fault (hno b)
  | .txDone :: es => hk es
  | .abort :: _ => serve_cons_idle (envStep_abort_busy hbusy) rfl
  | .iter _ :: _ => serve_cons_fault (atIdle_busy hbusy _)
  | .ext _ _ :: _ => serve_cons_fault (atIdle_busy hbusy _)

/-! ### The CRC exchange, answered in any way -/

theorem echoStep_correct {commit : State → Result State} {lo hi : Byte} {crc : Word} (hidx : s.idx = some 1)
    (hlo : s.echoLo = some lo) (hcrc : s.crc = some crc) (he : echoWord hi lo = trailer crc) :
    echoStep commit hi s = commit { s with echoHi := some hi } := by
  simp [echoStep, hidx, hlo, hcrc, he]

theorem echoStep_wrong {commit : State → Result State} {lo hi : Byte} {crc : Word} (hidx : s.idx = some 1)
    (hlo : s.echoLo = some lo) (hcrc : s.crc = some crc) (he : echoWord hi lo ≠ trailer crc) :
    echoStep commit hi s = .next (raise .crcMismatch s) :=
  echoStep_eq_next.mpr ⟨1, hidx, .inr ⟨by decide, lo, crc, hlo, hcrc, .inl ⟨he, rfl⟩⟩⟩

/-- An exchange that takes no other answer: `p` receives nothing, `q` transmits nothing, and the commit ends the
transaction. -/
structure StrictExchangeAt (p q : Eng) (commit : State → Result State) : Prop extends ExchangeAt p q commit where
  sends_only : ∀ {u : State} (b : Byte), u.eng = p → receiveStep b u = .fault .answerMismatch
  receives_only : ∀ {u : State}, u.eng = q → transmitStep u = .fault .answerMismatch
  commit_ends : ∀ {u t : State}, commit u = .next t → t.eng = .idle

theorem strictExchangeAt_read : StrictExchangeAt .rdCrcTx .rdEchoRx readCommit where
  toExchangeAt := exchangeAt_read
  sends_only b h := by simp [receiveStep, h]
  receives_only h := by simp [transmitStep, h]
  commit_ends h := by
    obtain ⟨_, _, _, -, -, -, rfl⟩ := readCommit_eq_next h
    rfl

/-- The state once both trailer bytes have gone out, at the position `q` that receives the echo. -/
abbrev State.trailerSent (u : State) (q : Eng) (crc : Word) : State :=
  { (u.emit (.tx (lowByte (trailer crc)))).emit (.tx (highByte (trailer crc))) with eng := q, idx := some 0 }

/-- The state once the whole echo is there, which a commit finds. -/
abbrev State.echoed (u : State) (lo hi : Byte) : State :=
  { u with idx := some 1, echoLo := some lo, echoHi := some hi }

/-- The echo of the engine is that of the programs: compared once, after the high byte (R125). -/
theorem runsAs_echo {p q : Eng} {commit : State → Result State} {crc : Word} {es : List EnvEvent}
    {k : List EnvEvent → Option (Result State)} (hx : StrictExchangeAt p q commit) (heng : u.eng = q)
    (hcrc : u.crc = some crc) (hidx : u.idx = some 0)
    (hcommit : ∀ lo hi es, k es = some (withEnv es (commit (u.echoed lo hi)))) :
    RunsAs (serve es u) (rxByte u.endTransaction es fun lo es => rxByte u.endTransaction es fun hi es =>
      if echoWord hi lo ≠ trailer crc then some (.next { raise .crcMismatch u.endTransaction with env := es })
      else k es) := by
  have hq : u.eng ≠ .idle := heng ▸ hx.receives_busy
  refine runsAs_rxByte hq (hx.receives_only heng) fun lo es => ?_
  refine runsAs_cons_busy (.trans (hx.receives lo heng) (echoStep_low hidx)) hq ?_
  refine runsAs_rxByte hq (hx.receives_only heng) fun hi es => ?_
  by_cases he : echoWord hi lo = trailer crc
  case neg =>
    rw [if_pos he]
    exact serve_cons_idle (.trans (hx.receives hi heng) (echoStep_wrong rfl rfl hcrc he)) rfl
  case pos =>
    have hstep : envStep (.rx hi) { u with echoLo := some lo, idx := some 1 } = commit (u.echoed lo hi) :=
      .trans (hx.receives hi heng) (echoStep_correct rfl rfl hcrc he)
    rw [if_neg (not_not_intro he), hcommit lo hi es]
    exact (serve_cons_ends fun _ ht => hx.commit_ends (hstep.symm.trans ht)).trans (congrArg (withEnv es) hstep)

/-- The CRC exchange of the engine is that of the programs, where what the program does after a correct echo is the
commit. -/
theorem runsAs_crcExchange {p q : Eng} {commit : State → Result State} {crc : Word} {es : List EnvEvent}
    {k : State → List EnvEvent → Option (Result State)} (hx : StrictExchangeAt p q commit) (heng : u.eng = p)
    (hcrc : u.crc = some crc) (hidx : u.idx = some 0)
    (hcommit : ∀ lo hi es, k ((u.trailerSent q crc).echoed lo hi).endTransaction es =
      some (withEnv es (commit ((u.trailerSent q crc).echoed lo hi)))) :
    RunsAs (serve es u) (crcExchange (trailer crc) u.endTransaction es k) := by
  have hp : u.eng ≠ .idle := heng ▸ hx.sends_busy
  refine runsAs_txByte hp (hx.sends_only · heng) fun es => ?_
  refine runsAs_cons_busy (.trans (hx.sends heng) (trailerStep_low hcrc hidx)) hp ?_
  refine runsAs_txByte hp (hx.sends_only · heng) fun es => ?_
  refine runsAs_cons_busy (.trans (hx.sends heng) (trailerStep_high hcrc rfl)) hx.receives_busy ?_
  exact runsAs_echo (u := u.trailerSent q crc) hx rfl hcrc rfl hcommit

/-! ### What a read's capabilities answer -/

/-- Where the port's `read_length` answers, its `read` gives that many bytes: the bitmap, or the byte of a port that
exists (R200 to R202). -/
theorem exists_portRead {c : Byte} {n : Nat} (h : portReadLength s c = .ok n) :
    ∃ bytes, portRead s c = .ok bytes ∧ bytes.length = n := by
  unfold portReadLength at h
  unfold portRead
  split at h
  next hc =>
    cases h
    exact ⟨levelBitmap s, if_pos hc, (pack_length_and_bits _ _).1⟩
  next hc =>
    split at h
    next hk =>
      cases h
      have hport := readPort_eq_ok.mpr ⟨(namesPort_iff.mp hk).2, rfl⟩
      exact ⟨[s.flags (portOf c)], by simp only [if_neg hc, hport], rfl⟩
    next => cases h

/-- Where `read_length` accepts, `read` gives that many bytes (R165). -/
theorem exists_readPayload {y c : Byte} {n : Nat} (h : readLength s y c = .ok n) (hpos : n ≠ 0) :
    ∃ bytes, readPayload s y c = .ok bytes ∧ bytes.length = n := by
  unfold readLength at h
  unfold readPayload
  split at h
  next => cases h
  next => exact exists_portRead h
  next =>
    cases h
    exact absurd rfl hpos
  next =>
    cases hread : extRead (extBody s y) c with
    | ok bytes => exact ⟨bytes, rfl, by simpa [hread] using h⟩
    | abort cause => simp [hread] at h
    | fault f => simp [hread] at h

theorem extRead_ne_fault (body : ExtBody) (c : Byte) (f : Fault) : extRead body c ≠ .fault f := by
  unfold extRead
  split <;> nofun

/-- `read_length` raises no model fault: it reads neither a register nor a port. -/
theorem readLength_ne_fault (s : State) (y c : Byte) (f : Fault) : readLength s y c ≠ .fault f := by
  unfold readLength
  split
  next => nofun
  next =>
    unfold portReadLength
    split
    next => nofun
    next => split <;> nofun
  next => nofun
  next =>
    split
    next => nofun
    next => nofun
    next f' hread => exact absurd hread (extRead_ne_fault _ c f')

/-- `read_done` acts on the ports alone, so the transaction may be discarded before it or after it. -/
theorem readDone_endTransaction (y c : Byte) (u : State) :
    readDone y c u.endTransaction = (readDone y c u).map State.endTransaction := by
  unfold readDone
  rw [State.endTransaction_cfg]
  split
  next =>
    have hread : readPort u.endTransaction (portOf c) = readPort u (portOf c) := rfl
    unfold portReadDone
    rw [hread]
    split
    next => rfl
    next => cases readPort u (portOf c) <;> rfl
  next => rfl

/-! ### The other answers at the positions of a read -/

theorem transmitStep_rdTag (h : u.eng = .rdTag) : transmitStep u = .fault .answerMismatch := by simp [transmitStep, h]
theorem transmitStep_rdChan (h : u.eng = .rdChan) : transmitStep u = .fault .answerMismatch := by
  simp [transmitStep, h]
theorem receiveStep_rdLenTx (h : u.eng = .rdLenTx) (b : Byte) : receiveStep b u = .fault .answerMismatch := by
  simp [receiveStep, h]
theorem receiveStep_rdDataTx (h : u.eng = .rdDataTx) (b : Byte) : receiveStep b u = .fault .answerMismatch := by
  simp [receiveStep, h]

theorem envStep_rdTag_unknown {y : Byte} {crc : Word} (heng : u.eng = .rdTag) (hcrc : u.crc = some crc)
    (hy : lookup u.cfg y = none) :
    envStep (.rx y) u = .next (raise .unknownType (u.emit (.diag (.unknownType y)))) :=
  (receiveStep_rdTag heng y).trans (foldByte_eq_next.mpr ⟨crc, hcrc, by simp only [hy]; rfl⟩)

theorem envStep_rdChan_abort {y c : Byte} {crc : Word} {cause : AbortCause} (heng : u.eng = .rdChan)
    (hcrc : u.crc = some crc) (htag : u.tag = some y) (hn : readLength u y c = .abort cause) :
    envStep (.rx c) u = .next (raise cause u) :=
  (receiveStep_rdChan heng c).trans <| foldByte_eq_next.mpr ⟨crc, hcrc, need_eq_next.mpr ⟨y, htag,
    orAbort_eq_next.mpr (.inr ⟨cause, (readLength_congr rfl rfl y c).trans hn, rfl⟩)⟩⟩

theorem envStep_rdChan_rejected {y c : Byte} {crc : Word} {n : Nat} {cause : AbortCause} (heng : u.eng = .rdChan)
    (hcrc : u.crc = some crc) (htag : u.tag = some y) (hn : readLength u y c = .ok n)
    (hcheck : checkLength u.cfg n = some cause) : envStep (.rx c) u = .next (raise cause u) :=
  (receiveStep_rdChan heng c).trans <| foldByte_eq_next.mpr ⟨crc, hcrc, need_eq_next.mpr ⟨y, htag,
    orAbort_eq_next.mpr (.inl ⟨n, (readLength_congr rfl rfl y c).trans hn, by simp only [hcheck]; rfl⟩)⟩⟩

/-! ### The phases of a read, from the last to the first -/

/-- The program of R162 after the payload: the CRC exchange and the completion. -/
def readCompletion (y c : Byte) (crc : Word) (s : State) (env : List EnvEvent) : Option (Result State) :=
  crcExchange (trailer crc) s env fun s env => programCommit (readDone y c s) (.readDone y c) env

/-- The program of R162 after the channel's length `n` is accepted. -/
def readResponse (y c : Byte) (n : Nat) (s : State) (env : List EnvEvent) : Option (Result State) :=
  txByte (BitVec.ofNat 8 n) s env fun s env =>
  programCap (readPayload s y c) s env fun bytes =>
  txBytes bytes s env fun s env =>
  readCompletion y c (crcOf s.cfg.crcAlgo 0 (0xF2 :: y :: c :: BitVec.ofNat 8 n :: bytes)) s env

/-- The program of R162 after the tag. -/
def readFromChannel (y : Byte) (s : State) (env : List EnvEvent) : Option (Result State) :=
  rxByte s env fun c env =>
  programCap (readLength s y c) s env fun n =>
  if n = 0 then done (raise .noCapability s) env
  else if s.cfg.maxPayload < n then done (raise .lengthOverflow s) env
  else readResponse y c n s env

theorem genericReadProgram_unknown {y : Byte} {es : List EnvEvent} (hy : lookup s.cfg y = none) :
    genericReadProgram s (.rx y :: es) = done (raise .unknownType (s.emit (.diag (.unknownType y)))) es := by
  simp only [genericReadProgram, rxByte, hy]

theorem genericReadProgram_known {y : Byte} {es : List EnvEvent} (hy : (lookup s.cfg y).isSome = true) :
    genericReadProgram s (.rx y :: es) = readFromChannel y s es := by
  obtain ⟨impl, hy⟩ := Option.isSome_iff_exists.mp hy
  simp only [genericReadProgram, rxByte, hy]
  rfl

/-- The completion of the program is the engine's commit, faults included (R159, R160). -/
theorem programCommit_readDone {y c : Byte} (htag : u.tag = some y) (hchan : u.chan = some c) (es : List EnvEvent) :
    programCommit (readDone y c u.endTransaction) (.readDone y c) es = some (withEnv es (readCommit u)) := by
  rw [readDone_endTransaction]
  simp only [readCommit, htag, hchan, need_some]
  cases readDone y c u <;> rfl

theorem runsAs_readCompletion {y c : Byte} {crc : Word} {es : List EnvEvent} (heng : u.eng = .rdCrcTx)
    (hcrc : u.crc = some crc) (htag : u.tag = some y) (hchan : u.chan = some c) (hidx : u.idx = some 0) :
    RunsAs (serve es u) (readCompletion y c crc u.endTransaction es) :=
  runsAs_crcExchange strictExchangeAt_read heng hcrc hidx fun _ _ es =>
    programCommit_readDone (u := (u.trailerSent _ _).echoed _ _) htag hchan es

/-- The state once the payload has gone out, with the record `out` that it leaves. -/
abbrev State.payloadSent (u : State) (crc : Word) (out : List OutEvent) : State :=
  { u with crc := some crc, idx := some 0, eng := .rdCrcTx, out := out }

/-- From any position in the payload: the bytes not yet sent go out in order and are folded (R156). -/
theorem runsAs_readData {n : Byte} {left : List Byte} {k : State → List EnvEvent → Option (Result State)} :
    ∀ {sent : List Byte} {b : Byte} {crc : Word} {u : State} {es : List EnvEvent}, u.eng = .rdDataTx →
      u.crc = some crc → u.len = some n → u.buf = sent ++ b :: left → n.toNat = sent.length + 1 + left.length →
      u.idx = some (BitVec.ofNat 8 sent.length) →
      (∀ out es, RunsAs (serve es (u.payloadSent (crcOf u.cfg.crcAlgo crc (b :: left)) out))
        (k (u.payloadSent (crcOf u.cfg.crcAlgo crc (b :: left)) out).endTransaction es)) →
      RunsAs (serve es u) (txBytes (b :: left) u.endTransaction es k) := by
  induction left with
  | nil =>
    intro sent b crc u es heng hcrc hlen hbuf hn hidx hk
    refine runsAs_txByte (heng ▸ nofun) (receiveStep_rdDataTx heng) fun es => ?_
    refine runsAs_cons_busy (envStep_rdDataTx_payload heng hcrc hlen hbuf hn hidx) nofun ?_
    exact hk (u.out ++ [.tx b]) es
  | cons d left ih =>
    intro sent b crc u es heng hcrc hlen hbuf hn hidx hk
    have hstep := envStep_rdDataTx_payload heng hcrc hlen hbuf hn hidx
    rw [if_neg (List.cons_ne_nil d left)] at hstep
    have hleft : n.toNat = (sent ++ [b]).length + 1 + left.length := by
      simp only [List.length_append, List.length_cons, List.length_nil] at hn ⊢
      omega
    rw [crcOf_cons] at hk
    refine runsAs_txByte (heng ▸ nofun) (receiveStep_rdDataTx heng) fun es => ?_
    refine runsAs_cons_busy hstep (heng ▸ nofun) ?_
    exact ih (sent := sent ++ [b]) heng rfl hlen (by simp [hbuf]) hleft (by simp) hk

/-- From the length byte: `read` gives the bytes that `read_length` counted, and they go out (R154 to R156). -/
theorem runsAs_readResponse {y c : Byte} {n : Nat} {es : List EnvEvent} (heng : u.eng = .rdLenTx)
    (hcrc : u.crc = some (crcOf u.cfg.crcAlgo 0 [0xF2, y, c])) (htag : u.tag = some y) (hchan : u.chan = some c)
    (hlen : u.len = some (BitVec.ofNat 8 n)) (hn : readLength u y c = .ok n) (hpos : n ≠ 0)
    (hmax : n ≤ u.cfg.maxPayload) (h255 : n ≤ 255) : RunsAs (serve es u) (readResponse y c n u.endTransaction es) := by
  obtain ⟨bytes, hbytes, rfl⟩ := exists_readPayload hn hpos
  refine runsAs_txByte (heng ▸ nofun) (receiveStep_rdLenTx heng) fun es => ?_
  rw [readPayload_congr (u := (u.emit _).endTransaction) (s := u) rfl rfl rfl, hbytes]
  refine runsAs_cons_busy (envStep_rdLenTx heng hcrc htag hchan hlen hbytes hmax) nofun ?_
  cases bytes with
  | nil => exact absurd rfl hpos
  | cons b left =>
    have hlength : (BitVec.ofNat 8 (b :: left).length).toNat = 0 + 1 + left.length := by
      rw [BitVec.toNat_ofNat, Nat.mod_eq_of_lt (by omega), List.length_cons]
      omega
    refine runsAs_readData (sent := []) rfl rfl hlen rfl hlength rfl fun out es => ?_
    exact runsAs_readCompletion rfl (by simp) htag hchan rfl

/-- From the channel byte: `check_length` decides as the program does (R152, R153). -/
theorem runsAs_readFromChannel {y : Byte} {es : List EnvEvent} (hwf : u.cfg.wf = true) (heng : u.eng = .rdChan)
    (hcrc : u.crc = some (crcOf u.cfg.crcAlgo 0 [0xF2, y])) (htag : u.tag = some y) :
    RunsAs (serve es u) (readFromChannel y u.endTransaction es) := by
  refine runsAs_rxByte (heng ▸ nofun) (transmitStep_rdChan heng) fun c es => ?_
  rw [readLength_congr (u := u.endTransaction) (s := u) rfl rfl]
  cases hn : readLength u y c with
  | abort cause => exact serve_cons_idle (envStep_rdChan_abort heng hcrc htag hn) rfl
  | fault f => exact absurd hn (readLength_ne_fault u y c f)
  | ok n =>
    dsimp only [programCap]
    split
    next h0 => exact serve_cons_idle (envStep_rdChan_rejected heng hcrc htag hn (if_pos h0)) rfl
    next h0 =>
      split
      next hover =>
        exact serve_cons_idle (envStep_rdChan_rejected heng hcrc htag hn ((if_neg h0).trans (if_pos hover))) rfl
      next hle =>
        have hmax : n ≤ u.cfg.maxPayload := Nat.le_of_not_lt hle
        refine runsAs_cons_busy (envStep_rdChan heng hcrc htag hn ((if_neg h0).trans (if_neg hle))) nofun ?_
        exact runsAs_readResponse rfl rfl htag rfl rfl ((readLength_congr rfl rfl y c).trans hn) h0 hmax
          (hmax.trans (maxPayload_bounds hwf).2)

/-- From the tag byte, for every script: the engine is the program of R162. -/
theorem runsAs_genericReadProgram {es : List EnvEvent} (hwf : u.cfg.wf = true) (heng : u.eng = .rdTag)
    (hcrc : u.crc = some (crcOf u.cfg.crcAlgo 0 [0xF2])) :
    RunsAs (serve es u) (genericReadProgram u.endTransaction es) := by
  refine runsAs_rxByte (heng ▸ nofun) (transmitStep_rdTag heng) fun y es => ?_
  change RunsAs _ (genericReadProgram u.endTransaction (.rx y :: es))
  cases hy : lookup u.cfg y with
  | none =>
    rw [genericReadProgram_unknown (s := u.endTransaction) hy]
    exact serve_cons_idle (envStep_rdTag_unknown heng hcrc hy) rfl
  | some impl =>
    have hy : (lookup u.cfg y).isSome = true := by rw [hy]; rfl
    rw [genericReadProgram_known (s := u.endTransaction) hy]
    refine runsAs_cons_busy (envStep_rdTag heng hcrc hy) nofun ?_
    exact runsAs_readFromChannel hwf rfl rfl rfl

/-- Settles O26: the function code takes the engine to the tag, where it runs as the program. -/
theorem genericReadIsItsSequentialProgram : Obligations.GenericReadIsItsSequentialProgram := by
  intro s y c hrest
  change RunsAs (serve (.rx 0xF2 :: .rx y :: .rx c :: s.env) s) _
  refine runsAs_cons_busy (envStep_readCode hrest.2) nofun ?_
  have hprogram : s = State.endTransaction { s with crc := some (accumulate s.cfg.crcAlgo 0 0xF2), eng := .rdTag } :=
    hrest.endTransaction_eq.symm
  exact hprogram ▸ runsAs_genericReadProgram hrest.cfg_wf rfl rfl

end Sys2Proof.Machine

/-! PROOFS. What an engine step may write (spec/43_generic_write.md R184). Each position but the two where an echo is
received keeps every persistent element; there the second echo byte alone can reach a commit, after the comparison, and
a commit ends the transaction with an entry of the record that is no abort. -/

namespace Sys2Proof.Machine

variable {s t : State}

theorem State.SamePersistent.refl (s : State) : s.SamePersistent s := ⟨rfl, rfl, rfl, rfl, rfl, rfl, rfl⟩

/-! ### The positions that write nothing persistent -/

theorem busAbort_samePersistent (s : State) : s.SamePersistent (busAbort s) := by
  unfold busAbort
  split <;> exact .refl s

theorem trailerStep_samePersistent {after : State → State} (h : trailerStep after s = .next t)
    (hafter : ∀ u : State, u.SamePersistent (after u)) : s.SamePersistent t := by
  obtain ⟨c, i, -, -, rfl⟩ := trailerStep_eq_next.mp h
  split
  · exact (hafter _ :)
  · exact .refl s

theorem dispatchStep_samePersistent {b : Byte} (h : dispatchStep b s = .next t) : s.SamePersistent t := by
  rw [dispatchStep_eq] at h
  dsimp only at h
  split at h
  · cases h; exact .refl s
  · split at h <;> cases h <;> exact .refl s

theorem rdTagStep_samePersistent {y : Byte} (h : rdTagStep y s = .next t) : s.SamePersistent t := by
  obtain ⟨c, -, ⟨-, rfl⟩ | ⟨-, rfl⟩⟩ := rdTagStep_eq_next h <;> exact .refl s

theorem rdChanStep_samePersistent {b : Byte} (h : rdChanStep b s = .next t) : s.SamePersistent t := by
  obtain ⟨c, y, -, -, ⟨cause, rfl, -⟩ | ⟨n, -, -, rfl⟩⟩ := rdChanStep_eq_next h <;> exact .refl s

theorem rdLenStep_samePersistent (h : rdLenStep s = .next t) : s.SamePersistent t := by
  obtain ⟨n, c, y, k, -, -, -, -, ⟨cause, -, rfl⟩ | ⟨bytes, -, -, rfl⟩⟩ := rdLenStep_eq_next h <;> exact .refl s

theorem rdDataStep_samePersistent (h : rdDataStep s = .next t) : s.SamePersistent t := by
  obtain ⟨i, n, b, c, -, -, -, -, -, rfl⟩ := rdDataStep_eq_next h
  split <;> exact .refl s

theorem xwNext_samePersistent {y : Byte} {got : List Byte} (h : xwNext y got s = .next t) : s.SamePersistent t := by
  obtain rfl | rfl | ⟨cause, rfl⟩ := xwNext_eq_next h <;> exact .refl s

theorem wrTagStep_samePersistent {y : Byte} (h : wrTagStep y s = .next t) : s.SamePersistent t := by
  obtain ⟨c, -, ⟨-, rfl⟩ | ⟨-, rfl⟩ | ⟨-, rfl⟩ | ⟨-, h⟩⟩ := wrTagStep_eq_next h
  · exact .refl s
  · exact .refl s
  · exact .refl s
  · exact (xwNext_samePersistent h :)

theorem pwChanStep_samePersistent {b : Byte} (h : pwChanStep b s = .next t) : s.SamePersistent t := by
  obtain ⟨c, -, rfl⟩ := pwChanStep_eq_next h
  split <;> exact .refl s

theorem pwLenStep_samePersistent {n : Byte} (h : pwLenStep n s = .next t) : s.SamePersistent t := by
  obtain ⟨c, -, rfl⟩ := pwLenStep_eq_next h
  split <;> exact .refl s

theorem pwDataStep_samePersistent {d : Byte} (h : pwDataStep d s = .next t) : s.SamePersistent t := by
  obtain ⟨c, i, n, -, -, -, -, -, rfl⟩ := pwDataStep_eq_next h
  split <;> exact .refl s

theorem xwTransmitStep_samePersistent (h : xwTransmitStep s = .next t) : s.SamePersistent t :=
  trailerStep_samePersistent (xwTransmitStep_eq_next h).2 .refl

theorem transmitStep_samePersistent (h : transmitStep s = .next t) : s.SamePersistent t := by
  cases heng : s.eng <;> simp only [transmitStep, heng, reduceCtorEq] at h
  case rdLenTx => exact rdLenStep_samePersistent h
  case rdDataTx => exact rdDataStep_samePersistent h
  case rdCrcTx => exact trailerStep_samePersistent h .refl
  case pwCrcTx => exact trailerStep_samePersistent h .refl
  case xw => exact xwTransmitStep_samePersistent h

/-! ### The second echo byte -/

/-- `IDX` is past the low echo byte, and the echo that `hi` completes is the inverted CRC (R125, R158, R178). -/
def State.EchoMatches (s : State) (hi : Byte) : Prop :=
  (∃ i, s.idx = some i ∧ i ≠ 0) ∧
    ∃ lo crc, s.echoLo = some lo ∧ s.crc = some crc ∧ echoWord hi lo = trailer crc

/-- The transaction has ended, and not by an abort (R160, R181). -/
def State.EndedByCommit (t : State) : Prop := t.eng = .idle ∧ ∀ c, t.out.getLast? ≠ some (.aborted c)

/-- An echo byte leaves every persistent element alone, or it completes a correct echo and the commit runs. -/
theorem echoStep_samePersistent_or_commits {commit : State → Result State} {e : Byte}
    (h : echoStep commit e s = .next t) :
    s.SamePersistent t ∨ s.EchoMatches e ∧ commit { s with echoHi := some e } = .next t := by
  obtain ⟨i, hidx, ⟨-, rfl⟩ | ⟨hi0, lo, crc, hlo, hcrc, ⟨-, rfl⟩ | ⟨hecho, hcommit⟩⟩⟩ := echoStep_eq_next.mp h
  · exact .inl (.refl s)
  · exact .inl (.refl s)
  · exact .inr ⟨⟨⟨i, hidx, hi0⟩, lo, crc, hlo, hcrc, hecho⟩, hcommit⟩

theorem readCommit_endedByCommit (h : readCommit s = .next t) : t.EndedByCommit := by
  obtain ⟨y, c, u, -, -, -, rfl⟩ := readCommit_eq_next h
  exact ⟨rfl, by simp⟩

theorem portCommit_endedByCommit (h : portCommit s = .next t) : t.EndedByCommit := by
  obtain ⟨y, c, n, v, u, -, -, -, -, -, rfl⟩ := portCommit_eq_next h
  exact ⟨rfl, by simp⟩

/-- The effect of an external write lies outside the core (R61). -/
theorem xwCommit_samePersistent (h : xwCommit s = .next t) : s.SamePersistent t := by
  obtain ⟨y, -, rfl⟩ := xwCommit_eq_next h
  exact .refl s

theorem xwReceiveStep_samePersistent {b : Byte} (h : xwReceiveStep b s = .next t) : s.SamePersistent t := by
  obtain ⟨got, c, y, -, -, -, h⟩ | ⟨-, h⟩ := xwReceiveStep_eq_next h
  · exact (xwNext_samePersistent h :)
  · obtain hsame | ⟨-, hcommit⟩ := echoStep_samePersistent_or_commits h
    · exact hsame
    · exact (xwCommit_samePersistent hcommit :)

/-- The byte `hi`, received in `s`, is the one that commits the transaction. -/
structure CommitsOn (hi : Byte) (s t : State) : Prop where
  position : s.eng = .rdEchoRx ∨ s.eng = .pwEchoRx
  echo : s.EchoMatches hi
  ended : t.EndedByCommit

theorem receiveStep_samePersistent_or_commits {b : Byte} (h : receiveStep b s = .next t) :
    s.SamePersistent t ∨ CommitsOn b s t := by
  cases heng : s.eng <;> simp only [receiveStep, heng, reduceCtorEq] at h
  case idle => exact .inl (dispatchStep_samePersistent h)
  case rdTag => exact .inl (rdTagStep_samePersistent h)
  case rdChan => exact .inl (rdChanStep_samePersistent h)
  case rdEchoRx =>
    exact (echoStep_samePersistent_or_commits h).imp_right fun ⟨hecho, hcommit⟩ =>
      ⟨.inl heng, hecho, readCommit_endedByCommit hcommit⟩
  case wrTag => exact .inl (wrTagStep_samePersistent h)
  case pwChan => exact .inl (pwChanStep_samePersistent h)
  case pwLen => exact .inl (pwLenStep_samePersistent h)
  case pwData => exact .inl (pwDataStep_samePersistent h)
  case pwEchoRx =>
    exact (echoStep_samePersistent_or_commits h).imp_right fun ⟨hecho, hcommit⟩ =>
      ⟨.inr heng, hecho, portCommit_endedByCommit hcommit⟩
  case xw => exact .inl (xwReceiveStep_samePersistent h)

/-- Everything an engine step can do to the persistent state: nothing, or the commit that a correct echo starts. -/
theorem envStep_samePersistent_or_commits {e : EnvEvent} (hbus : e.answersBus = true) (h : envStep e s = .next t) :
    s.SamePersistent t ∨ ∃ hi, e = .rx hi ∧ CommitsOn hi s t := by
  cases e with
  | rx b => exact (receiveStep_samePersistent_or_commits h).imp_right fun hcommits => ⟨b, rfl, hcommits⟩
  | txDone => exact .inl (transmitStep_samePersistent h)
  | abort => cases h; exact .inl (busAbort_samePersistent s)
  | iter sample => cases hbus
  | ext y body => cases hbus

/-! ### The bound of `IDX` at an echo position -/

/-- At an echo position only the two echo bytes are counted (R39, R158, R178). -/
theorem State.idx_le_one_of_inv {i : Byte} (hinv : s.inv = true) (hpos : s.eng = .rdEchoRx ∨ s.eng = .pwEchoRx)
    (hidx : s.idx = some i) : i.toNat ≤ 1 := by
  have hregs : s.registersOk = true := by
    simp only [State.inv, Bool.and_eq_true] at hinv
    exact hinv.2
  have hecho : s.receivingEcho = true := by
    obtain heng | heng := hpos <;>
      · simp only [State.registersOk, heng, Bool.and_eq_true] at hregs
        obtain ⟨-, ⟨-, hecho⟩, -⟩ := hregs
        exact hecho
  simp only [State.receivingEcho, State.idxIs, hidx, Option.any_some, Bool.and_eq_true, decide_eq_true_eq] at hecho
  exact hecho.1

/-- Settles O17: a step either keeps every persistent element or is the commit, which neither leaves the transaction in
progress nor aborts it; where the invariant bounds `IDX`, the byte past the low one is the second. -/
theorem nothingPersistentIsWrittenBeforeTheCommit : Obligations.NothingPersistentIsWrittenBeforeTheCommit := by
  intro s t e hbus hstep
  obtain hsame | ⟨hi, rfl, hpos, ⟨⟨i, hidx, hi0⟩, lo, crc, hlo, hcrc, hecho⟩, hidle, hnoAbort⟩ :=
    envStep_samePersistent_or_commits hbus hstep
  · exact ⟨fun _ => hsame, fun _ hdiff => absurd hsame hdiff⟩
  · refine ⟨?notCommitted, fun hinv _ => ?committed⟩
    case notCommitted =>
      rintro (hbusy | ⟨c, habort⟩)
      · exact absurd hidle hbusy
      · exact absurd habort (hnoAbort c)
    case committed =>
      have hi1 : i = 1 := by
        have hle := State.idx_le_one_of_inv hinv hpos hidx
        bv_omega
      exact ⟨hpos, hi1 ▸ hidx, hidle, hi, lo, crc, rfl, hlo, hcrc, hecho⟩

end Sys2Proof.Machine

/-! PROOFS. The port device type (spec/44_port.md R191 to R207). What the bit operations on a flags byte do is said bit by
bit, once; each port operation is then the equation the model's laws give for it, read at the bits it writes. -/

namespace Sys2Proof.Machine

variable {s t : State}

/-! ### The bits of a flags byte after a write -/

/-- `setBit` writes its own bit and no other. -/
theorem getLsbD_setBit (i : Nat) (v : Bool) (f : Byte) {b : Nat} (hb : b < 8) :
    (setBit i v f).getLsbD b = if b = i then v else f.getLsbD b := by
  have hone : (1#8 <<< i).getLsbD b = decide (b = i) := by
    simpa [bitAt, eq_comm] using getLsbD_bitAt true (k := i) hb
  cases v with
  | false =>
    rw [setBit, if_neg Bool.false_ne_true, BitVec.getLsbD_and, BitVec.getLsbD_not, hone]
    by_cases h : b = i <;> simp [h, hb]
  | true =>
    rw [setBit, if_pos rfl, BitVec.getLsbD_or, hone]
    by_cases h : b = i <;> simp [h]

theorem getLsbD_setBit_same {i : Nat} (hi : i < 8) (v : Bool) (f : Byte) : (setBit i v f).getLsbD i = v := by
  rw [getLsbD_setBit i v f hi, if_pos rfl]

/-- The other positions include those above the byte, which read 0. -/
theorem getLsbD_setBit_other {i b : Nat} (h : b ≠ i) (v : Bool) (f : Byte) :
    (setBit i v f).getLsbD b = f.getLsbD b := by
  by_cases hb : b < 8
  · rw [getLsbD_setBit i v f hb, if_neg h]
  · rw [BitVec.getLsbD_of_ge _ _ (not_lt.mp hb), BitVec.getLsbD_of_ge _ _ (not_lt.mp hb)]

/-- The masked write takes the value's bit where the mask is 1 and keeps the byte's where it is 0 (R205). -/
theorem getLsbD_maskedFlags (v m f : Byte) {b : Nat} (hb : b < 8) :
    (maskedFlags v m f).getLsbD b = if m.getLsbD b then v.getLsbD b else f.getLsbD b := by
  rw [maskedFlags, BitVec.getLsbD_or, BitVec.getLsbD_and, BitVec.getLsbD_and, BitVec.getLsbD_not]
  cases m.getLsbD b <;> simp [hb]

/-- The level bit is one of the two mode bits. -/
theorem lvlBit_le_one (f : Byte) : lvlBit f ≤ 1 := by
  unfold lvlBit
  split <;> decide

/-- `port_set` on a byte writes the level bit and `CURRENT` (R194). -/
theorem getLsbD_commandedFlags (v : Bool) (f : Byte) {b : Nat} (hb : b < 8) :
    (commandedFlags v f).getLsbD b = if b = lvlBit f ∨ b = 3 then v else f.getLsbD b := by
  rw [commandedFlags, getLsbD_setBit 3 v _ hb, getLsbD_setBit (lvlBit f) v f hb]
  by_cases h3 : b = 3 <;> simp [h3]

/-- `port_set` does not touch `ALT`, so the level bit stays where it is. -/
theorem lvlBit_commandedFlags (v : Bool) (f : Byte) : lvlBit (commandedFlags v f) = lvlBit f := by
  have halt : flagAlt (commandedFlags v f) = flagAlt f := by
    have hlevel := lvlBit_le_one f
    exact (getLsbD_commandedFlags v f (by decide)).trans (if_neg (by omega))
  rw [lvlBit, halt, lvlBit]

/-- After `port_set` wrote, the mode encodes the value (R195). -/
theorem lvl_commandedFlags (v : Bool) (f : Byte) : lvl (commandedFlags v f) = v := by
  have hlevel := lvlBit_le_one f
  rw [lvl, lvlBit_commandedFlags, getLsbD_commandedFlags v f (by omega), if_pos (.inl rfl)]

/-! ### The mode and the bits it is read from -/

/-- Layout A's table gives the drive bit and the level bit of a mode (R101, R103). -/
theorem mode_eq_iff (f : Byte) (m : Mode) : mode f = m ↔ (drv f, lvl f) = modeBits false m := by
  unfold mode
  cases drv f <;> cases lvl f <;> cases m <;> decide

/-- Layout B's table is layout A's with the two bits exchanged (R101, R102). -/
theorem modeBits_true (m : Mode) : modeBits true m = (modeBits false m).swap := by
  cases m <;> rfl

/-- The mode is read from `M0`, `M1` and `ALT` (R103). -/
theorem mode_eq_of_low_bits {f g : Byte} (h : ∀ b, b < 3 → f.getLsbD b = g.getLsbD b) : mode f = mode g := by
  have hm0 : flagM0 f = flagM0 g := h 0 (by decide)
  have hm1 : flagM1 f = flagM1 g := h 1 (by decide)
  have halt : flagAlt f = flagAlt g := h 2 (by decide)
  rw [mode_eq_iff, drv_eq, lvl_eq, hm0, hm1, halt, ← drv_eq, ← lvl_eq, ← mode_eq_iff]

/-- Bytes that agree under the mask 0x07 agree in the three mode bits. -/
theorem getLsbD_eq_of_and_seven {f g : Byte} (h : f &&& 0x07 = g &&& 0x07) {b : Nat} (hb : b < 3) :
    f.getLsbD b = g.getLsbD b := by
  have hmask : ∀ b < 3, (0x07 : Byte).getLsbD b = true := by decide
  have hand := congrArg (BitVec.getLsbD · b) h
  simpa only [BitVec.getLsbD_and, hmask b hb, Bool.and_true] using hand

/-- Settles O42: in layout A the mode bits are the drive bit and the level bit, in layout B the same two exchanged, and
the exchange is its own inverse. -/
theorem encodeInvertsEachLayout : Obligations.EncodeInvertsEachLayout := by
  intro f m
  rw [mode_eq_iff, drv_eq, lvl_eq]
  cases flagAlt f with
  | false => rfl
  | true => rw [modeBits_true, ← Prod.swap_inj]; rfl

/-- The output of a port that exists is the drive of its mode (R56, R192). -/
theorem pinOutput_eq {i : Nat} (hi : i < s.cfg.nPort) : pinOutput s i = .ok (pinDrive (mode (s.flags i))) := by
  rw [pinOutput, readPort_eq_ok.mpr ⟨hi, rfl⟩]

/-- Settles O43: the output of a port that exists is the drive of its mode, and the mode is read from bits 0 to 2. -/
theorem pinOutputFollowsTheMode : Obligations.PinOutputFollowsTheMode := by
  refine ⟨fun s i hi => ?_, fun f g h => mode_eq_of_low_bits fun b hb => getLsbD_eq_of_and_seven h hb⟩
  rw [pinOutput_eq hi]
  cases mode (s.flags i) <;> rfl

/-- Settles O49: where the mask is 0 the masked write keeps the byte's bit, the mode bits among them. -/
theorem nonModeMaskKeepsTheMode : Obligations.NonModeMaskKeepsTheMode := by
  refine fun v m f hmask => mode_eq_of_low_bits fun b hb => ?_
  have hclear : m.getLsbD b = false := by
    simpa using getLsbD_eq_of_and_seven (g := 0x00) hmask hb
  simp [getLsbD_maskedFlags v m f (show b < 8 by omega), hclear]

/-! ### The port operations -/

/-- The invariant of the port space contains its canonical form. -/
theorem State.ports_wf_of_portsOk (h : s.portsOk = true) : s.ports.wf = true := by
  rw [State.portsOk, Bool.and_eq_true] at h
  exact h.1

/-- Settles O44: what `port_set` writes are the bits of `commandedFlags`. -/
theorem portSetWritesLevelAndCurrent : Obligations.PortSetWritesLevelAndCurrent := by
  intro s i v hports hi
  refine ⟨_, portSet_eq_ok.mpr ⟨hi, rfl⟩, fun hlvl => if_pos hlvl, fun hlvl => ?_⟩
  rw [if_neg hlvl, flags_setFlags_same (State.ports_wf_of_portsOk hports)]
  exact ⟨rfl, fun b hb => getLsbD_commandedFlags v _ hb⟩

/-- Settles O45: `port_set` leaves the mode encoding the value, whether it wrote or not, and then writes nothing. -/
theorem portSetIsIdempotent : Obligations.PortSetIsIdempotent := by
  intro s t i v hports hset
  have hcfg : t.cfg = s.cfg := portSet_cfg hset
  obtain ⟨hi, ht⟩ := portSet_eq_ok.mp hset
  have hlvl : lvl (t.flags i) = v := by
    split at ht
    next h => rw [ht, h]
    next => rw [ht, flags_setFlags_same (State.ports_wf_of_portsOk hports), lvl_commandedFlags]
  exact ⟨hlvl, portSet_eq_ok.mpr ⟨hcfg ▸ hi, (if_pos hlvl).symm⟩⟩

/-- Settles O46: a sample other than `CURRENT` writes `changedFlags`, which sets bits 3 and 4 alone. -/
theorem portCheckDetectsAChange : Obligations.PortCheckDetectsAChange := by
  intro s i v _ hi
  refine ⟨fun hsame => portCheck_eq_ok.mpr ⟨hi, (if_pos hsame).symm⟩, fun hdiff =>
    ⟨changedFlags v (s.flags i), portCheck_eq_ok.mpr ⟨hi, (if_neg hdiff).symm⟩, ?current, ?changed, ?others⟩⟩
  case current =>
    exact (getLsbD_setBit_other (by decide) _ _).trans (getLsbD_setBit_same (by decide) v _)
  case changed => exact getLsbD_setBit_same (by decide) true _
  case others =>
    intro b h3 h4
    exact (getLsbD_setBit_other h4 _ _).trans (getLsbD_setBit_other h3 v _)

/-- Settles O47: `read_done` of a channel that names a port writes `deliveredFlags`, which clears bits 4 and 5 alone. -/
theorem readDoneClearsTheReport : Obligations.ReadDoneClearsTheReport := by
  refine fun s => ⟨portReadDone_eq_ok.mpr (.inl ⟨rfl, rfl⟩), fun c hc => ?_⟩
  obtain ⟨hc0, hlt⟩ := namesPort_iff.mp hc
  refine ⟨deliveredFlags (s.flags (portOf c)), portReadDone_eq_ok.mpr (.inr ⟨hc0, hlt, rfl⟩), ?changed, ?poll, ?others⟩
  case changed =>
    exact (getLsbD_setBit_other (by decide) _ _).trans (getLsbD_setBit_same (by decide) false _)
  case poll => exact getLsbD_setBit_same (by decide) false _
  case others =>
    intro b h4 h5
    exact (getLsbD_setBit_other h5 _ _).trans (getLsbD_setBit_other h4 false _)

/-- Settles O48: the masked write is `maskedFlags`, and the two corner masks select no bit and every bit. -/
theorem maskedWriteTakesTheSelectedBits : Obligations.MaskedWriteTakesTheSelectedBits := by
  intro s i v m hi
  refine ⟨maskedFlags v m (s.flags i), portMaskedWrite_eq_ok.mpr ⟨hi, rfl⟩, rfl,
    fun b hb => getLsbD_maskedFlags v m _ hb, ?none, ?all⟩
  case none =>
    rintro rfl
    exact BitVec.eq_of_getLsbD_eq fun b hb =>
      (getLsbD_maskedFlags v _ _ hb).trans (if_neg (by simp))
  case all =>
    rintro rfl
    have hones : ∀ b < 8, (0xFF : Byte).getLsbD b = true := by decide
    exact BitVec.eq_of_getLsbD_eq fun b hb => (getLsbD_maskedFlags v _ _ hb).trans (if_pos (hones b hb))

/-- Settles O50: channel 0, the channels that name a port, and the channels above them. -/
theorem portReadLengthByChannel : Obligations.PortReadLengthByChannel := by
  intro s c
  refine ⟨?bitmap, fun hpos hle => ?status, fun habove => ?reserved⟩
  case bitmap =>
    rintro rfl
    rfl
  case status =>
    have hc0 : c ≠ 0 := by bv_omega
    rw [portReadLength, if_neg hc0, if_pos (by simp [namesPort, hpos, hle])]
  case reserved =>
    have hc0 : c ≠ 0 := by rintro rfl; exact absurd habove (Nat.not_lt_zero _)
    rw [portReadLength, if_neg hc0, if_neg (by simp [namesPort, habove])]

end Sys2Proof.Machine

/-! PROOFS. The mainloop (spec/45_mainloop.md R230 to R239). One iteration is described once, as the relation
`IterationEffect` between the state before it and the state after it; the running maximum and the cycle of `N_PORT`
iterations read that description and never the operations behind it. -/

namespace Sys2Proof.Machine

variable {s t u : State}

/-! ### The invariant, taken apart -/

theorem State.inv_iff :
    s.inv = true ↔ s.cfg.wf = true ∧ s.portsOk = true ∧ s.pollerOk = true ∧ s.registersOk = true := by
  simp only [State.inv, Bool.and_eq_true, and_assoc]

theorem State.pollerOk_iff :
    s.pollerOk = true ↔
      s.pollCur.toNat < s.cfg.nPort ∧
        s.runMax.toNat ≤ (if s.pollCur = 0 then s.cfg.nPort else s.pollCur.toNat) ∧ s.cache.toNat ≤ s.cfg.nPort := by
  simp only [State.pollerOk, Bool.and_eq_true, decide_eq_true_eq, and_assoc]

/-- A legal configuration has at most 255 ports, so one past a port's index is still a byte (R10). -/
theorem nPort_le_of_wf {cfg : Config} (h : cfg.wf = true) : cfg.nPort ≤ 255 := by
  simp only [Config.wf, Config.nPortOk, Bool.and_eq_true, decide_eq_true_eq] at h
  obtain ⟨⟨⟨⟨⟨-, hle⟩, -⟩, -⟩, -⟩, -⟩ := h
  exact hle

/-- The cursor names a port, and its port's channel does not wrap (R44, R73). -/
theorem State.cursor_of_inv (h : s.inv = true) :
    s.pollCur.toNat < s.cfg.nPort ∧ (s.pollCur + 1).toNat = s.pollCur.toNat + 1 := by
  obtain ⟨hcfg, -, hpoller, -⟩ := State.inv_iff.mp h
  have hcur := (State.pollerOk_iff.mp hpoller).1
  have hle := nPort_le_of_wf hcfg
  exact ⟨hcur, by bv_omega⟩

/-! ### What the operations of an iteration leave unchanged -/

@[simp] theorem flags_cycleStart (s : State) (j : Nat) : (cycleStart s).flags j = s.flags j := by
  rw [State.flags, cycleStart_ports, State.flags]
@[simp] theorem flags_noteMaximum (s : State) (j : Nat) : (noteMaximum s).flags j = s.flags j := by
  rw [State.flags, noteMaximum_ports, State.flags]
@[simp] theorem flags_advanceCursor (s : State) (j : Nat) : (advanceCursor s).flags j = s.flags j := rfl
@[simp] theorem flags_aggregateAlerts (s : State) (j : Nat) : (aggregateAlerts s).flags j = s.flags j := rfl

/-- The aggregate condition does not read what the mainloop derives from it. -/
@[simp] theorem anyAlert_aggregateAlerts (s : State) : anyAlert (aggregateAlerts s) = anyAlert s := rfl

/-- Only what an iteration may write (R236) differs between the two states. -/
def MainloopFrame (s t : State) : Prop :=
  t = { s with
    ports := t.ports, cache := t.cache, runMax := t.runMax, pollCur := t.pollCur, alertPresent := t.alertPresent,
    out := t.out }

theorem MainloopFrame.trans (h₁ : MainloopFrame s t) (h₂ : MainloopFrame t u) : MainloopFrame s u :=
  Eq.trans h₂ (by rw [h₁])

theorem MainloopFrame.cfg_eq (h : MainloopFrame s t) : t.cfg = s.cfg := by rw [h]
theorem MainloopFrame.eng_eq (h : MainloopFrame s t) : t.eng = s.eng := by rw [h]

/-- At rest the registers' part of the invariant reads transaction registers only. -/
theorem MainloopFrame.registersOk_eq (h : MainloopFrame s t) (heng : s.eng = .idle) :
    t.registersOk = s.registersOk := by
  rw [State.registersOk, State.registersOk, h.eng_eq, heng, h]
  rfl

theorem mainloopFrame_cycleStart (s : State) : MainloopFrame s (cycleStart s) := by
  unfold cycleStart; split <;> rfl
theorem mainloopFrame_noteMaximum (s : State) : MainloopFrame s (noteMaximum s) := by
  unfold noteMaximum; split <;> rfl
theorem mainloopFrame_advanceCursor (s : State) : MainloopFrame s (advanceCursor s) := rfl
theorem mainloopFrame_aggregateAlerts (s : State) : MainloopFrame s (aggregateAlerts s) := rfl
theorem mainloopFrame_portCheck {i : Nat} {v : Bool} (h : portCheck i v s = .ok t) : MainloopFrame s t := by
  obtain ⟨-, rfl⟩ := portCheck_eq_ok.mp h
  split <;> rfl

/-! ### The check of one port -/

/-- A port's flags after `port_check` with the sample `v` (R196). -/
def checkedFlags (v : Bool) (f : Byte) : Byte := if v = flagCurrent f then f else changedFlags v f

/-- The check takes the sample into `CURRENT`, whether or not it had to write (R196). -/
theorem flagCurrent_checkedFlags (v : Bool) (f : Byte) : flagCurrent (checkedFlags v f) = v := by
  unfold checkedFlags
  split
  next hsame => exact hsame.symm
  next => exact (getLsbD_setBit_other (by decide) _ _).trans (getLsbD_setBit_same (by decide) v _)

theorem flags_portCheck_same {i : Nat} {v : Bool} (hwf : s.ports.wf = true) (h : portCheck i v s = .ok t) :
    t.flags i = checkedFlags v (s.flags i) := by
  obtain ⟨-, rfl⟩ := portCheck_eq_ok.mp h
  unfold checkedFlags
  split
  next => rfl
  next => rw [flags_emit, flags_setFlags_same hwf]

theorem flags_portCheck_other {i j : Nat} {v : Bool} (hj : j ≠ i) (h : portCheck i v s = .ok t) :
    t.flags j = s.flags j := by
  obtain ⟨-, rfl⟩ := portCheck_eq_ok.mp h
  split
  next => rfl
  next => rw [flags_emit, flags_setFlags_other hj]

theorem portCheck_portsOk {i : Nat} {v : Bool} (hports : s.portsOk = true) (h : portCheck i v s = .ok t) :
    t.portsOk = true := by
  obtain ⟨hi, rfl⟩ := portCheck_eq_ok.mp h
  split
  next => exact hports
  next => exact portsOk_setFlags hports hi

/-- A change, and only a change, is reported. -/
theorem portCheck_out {i : Nat} {v : Bool} (h : portCheck i v s = .ok t) :
    t.out = s.out ++ if v = flagCurrent (s.flags i) then [] else [.diag (.pinChange i)] := by
  obtain ⟨-, rfl⟩ := portCheck_eq_ok.mp h
  split
  next => exact (List.append_nil _).symm
  next => rfl

/-- A check writes no register of the poller. -/
theorem portCheck_poller {i : Nat} {v : Bool} (h : portCheck i v s = .ok t) :
    t.pollCur = s.pollCur ∧ t.runMax = s.runMax ∧ t.cache = s.cache := by
  obtain ⟨-, rfl⟩ := portCheck_eq_ok.mp h
  split <;> exact ⟨rfl, rfl, rfl⟩

/-! ### One iteration -/

/-- What an iteration with the sample `v` makes of a state (R231 to R236), and that the port space stays in order. -/
structure IterationEffect (v : Bool) (s t : State) : Prop where
  checked : t.flags s.pollCur.toNat = checkedFlags v (s.flags s.pollCur.toNat)
  others : ∀ j, j ≠ s.pollCur.toNat → t.flags j = s.flags j
  cache : t.cache = if s.pollCur = 0 then s.runMax else s.cache
  runMax : t.runMax = if pending (t.flags s.pollCur.toNat) then s.pollCur + 1 else if s.pollCur = 0 then 0 else s.runMax
  pollCur : t.pollCur.toNat = (s.pollCur.toNat + 1) % s.cfg.nPort
  alertPresent : t.alertPresent = (s.cfg.condSearchEn && anyAlert t)
  out : t.out = s.out ++ if v = flagCurrent (s.flags s.pollCur.toNat) then [] else [.diag (.pinChange s.pollCur.toNat)]
  frame : MainloopFrame s t
  portsOk : t.portsOk = true

/-- Under the invariant the rule describes every iteration that happens. -/
theorem iterationEffect_of_next {v : Bool} (hinv : s.inv = true) (h : mainloopIteration v s = .next t) :
    IterationEffect v s t := by
  obtain ⟨hcfg, hports, -, -⟩ := State.inv_iff.mp hinv
  have hnPort := nPort_le_of_wf hcfg
  have hcursor := (State.cursor_of_inv hinv).1
  have hstart : (cycleStart s).portsOk = true := by
    simpa only [State.portsOk, cycleStart_ports, cycleStart_cfg] using hports
  obtain ⟨w, hw, rfl⟩ := mainloopIteration_eq_next.mp h
  obtain ⟨hcur, hmax, hcache⟩ := portCheck_poller hw
  have hwcfg : w.cfg = s.cfg := (portCheck_cfg hw).trans (cycleStart_cfg s)
  rw [cycleStart_pollCur] at hcur
  refine { checked := ?checked, others := ?others, cache := ?cache, runMax := ?runMax, pollCur := ?pollCur,
           alertPresent := ?alertPresent, out := ?out, frame := ?frame, portsOk := ?portsOk }
  case checked => simp [flags_portCheck_same (State.ports_wf_of_portsOk hstart) hw]
  case others =>
    intro j hj
    simp [flags_portCheck_other hj hw]
  case cache => simp [hcache]
  case runMax => simp [hcur, hmax]
  case pollCur =>
    have hlt : (s.pollCur.toNat + 1) % s.cfg.nPort < 2 ^ 8 := (Nat.mod_lt _ (by omega)).trans (by omega)
    simpa [hcur, hwcfg] using hlt
  case alertPresent => simp [hwcfg]
  case out => simp [portCheck_out hw]
  case frame =>
    exact (mainloopFrame_cycleStart s).trans <| (mainloopFrame_portCheck hw).trans <|
      (mainloopFrame_noteMaximum w).trans <| (mainloopFrame_advanceCursor _).trans (mainloopFrame_aggregateAlerts _)
  case portsOk =>
    simpa only [State.portsOk, aggregateAlerts_ports, aggregateAlerts_cfg, advanceCursor_ports, advanceCursor_cfg,
      noteMaximum_ports, noteMaximum_cfg] using portCheck_portsOk hstart hw

/-- Under the invariant an iteration happens: the cursor names a port (R236: no abort). -/
theorem exists_mainloopIteration (v : Bool) (hinv : s.inv = true) : ∃ t, mainloopIteration v s = .next t := by
  have hcursor := (State.cursor_of_inv hinv).1
  exact ⟨_, mainloopIteration_eq_next.mpr ⟨_, portCheck_eq_ok.mpr ⟨by rwa [cycleStart_cfg], rfl⟩, rfl⟩⟩

/-- An iteration keeps the bounds of the poller registers (R44 to R46). -/
theorem IterationEffect.pollerOk {v : Bool} (h : IterationEffect v s t) (hinv : s.inv = true) : t.pollerOk = true := by
  obtain ⟨hcursor, hsucc⟩ := State.cursor_of_inv hinv
  obtain ⟨-, -, hpoller, -⟩ := State.inv_iff.mp hinv
  obtain ⟨-, hmax, hcache⟩ := State.pollerOk_iff.mp hpoller
  have hmax' : t.runMax.toNat ≤ s.pollCur.toNat + 1 := by
    rw [h.runMax]
    split_ifs with hpending hstart
    · exact hsucc.le
    · exact Nat.zero_le _
    · rw [if_neg hstart] at hmax
      exact hmax.trans (Nat.le_succ _)
  rw [State.pollerOk_iff, h.frame.cfg_eq]
  refine ⟨?cursor, ?maximum, ?cache⟩
  case cursor =>
    rw [h.pollCur]
    exact Nat.mod_lt _ (by omega)
  case maximum =>
    split_ifs with hwrap
    · omega
    · have hnext : s.pollCur.toNat + 1 ≠ s.cfg.nPort := fun hlast =>
        hwrap (BitVec.eq_of_toNat_eq (by rw [h.pollCur, hlast, Nat.mod_self]; rfl))
      rwa [h.pollCur, Nat.mod_eq_of_lt (by omega)]
  case cache =>
    rw [h.cache]
    split_ifs with hstart
    · rwa [if_pos hstart] at hmax
    · exact hcache

/-- After an iteration the block is at rest again. -/
theorem IterationEffect.atRest {v : Bool} (h : IterationEffect v s t) (hrest : s.AtRest) : t.AtRest := by
  obtain ⟨hinv, heng⟩ := hrest
  obtain ⟨hcfg, -, -, hregs⟩ := State.inv_iff.mp hinv
  refine ⟨State.inv_iff.mpr ⟨?_, h.portsOk, h.pollerOk hinv, ?_⟩, h.frame.eng_eq.trans heng⟩
  · rwa [h.frame.cfg_eq]
  · rwa [h.frame.registersOk_eq heng]

/-- An iteration is no byte of a request. -/
theorem fetch_iter (cfg : Config) (v : Bool) (es : List EnvEvent) : fetch cfg (.iter v :: es) = none := rfl

/-- At rest, with an iteration next, the step is that iteration. -/
theorem exists_step_iter {v : Bool} {es : List EnvEvent} (hrest : s.AtRest) (henv : s.env = .iter v :: es) :
    ∃ t, step s = .next { t with env := es } ∧ IterationEffect v s t := by
  obtain ⟨t, ht⟩ := exists_mainloopIteration v hrest.1
  have hstep : envStep (.iter v) s = .next t := atIdle_eq_next.mpr ⟨hrest.2, ht⟩
  refine ⟨t, step_eq_next.mpr (.inr ⟨fun _ => henv ▸ fetch_iter s.cfg v es, ?_⟩), iterationEffect_of_next hrest.1 ht⟩
  exact microStep_eq_next.mpr (.inr ⟨.iter v, es, t, henv, hstep, rfl⟩)

/-- Settles O54: the step is the iteration, and the script is all that it takes besides. -/
theorem mainloopIterationEffect : Obligations.MainloopIterationEffect := by
  intro s v es hrest henv
  obtain ⟨t, hstep, h⟩ := exists_step_iter hrest henv
  have hcur : s.pollCur.toNat = 0 ↔ s.pollCur = 0 := BitVec.toNat_inj (y := 0#8)
  have hmax := h.runMax
  rw [h.checked] at hmax
  refine ⟨_, hstep, h.checked, h.others, ?cache, ?runMax, h.pollCur, h.alertPresent, h.out, ?frame⟩
  case cache => simpa only [hcur] using h.cache
  case runMax =>
    simp only [hcur]
    exact hmax
  case frame => exact congrArg (fun u : State => { u with env := es }) h.frame

/-- Settles O56: off the cycle start the maximum is at most the cursor, and the iteration keeps it or sets it to one
past the cursor. -/
theorem runningMaximumNeverDecreases : Obligations.RunningMaximumNeverDecreases := by
  intro s t v hinv hcur hstep
  have h := iterationEffect_of_next hinv (atIdle_eq_next.mp hstep).2
  have hsucc := (State.cursor_of_inv hinv).2
  have hmax : s.runMax.toNat ≤ s.pollCur.toNat := by
    obtain ⟨-, -, hpoller, -⟩ := State.inv_iff.mp hinv
    obtain ⟨-, hbound, -⟩ := State.pollerOk_iff.mp hpoller
    rwa [if_neg hcur] at hbound
  rw [h.runMax, if_neg hcur]
  split_ifs
  · omega
  · exact le_rfl

/-! ### Consecutive iterations -/

/-- A machine that answers a next state goes on from it. -/
theorem run_succ_of_step (h : step s = .next t) (k : Nat) :
    Host.Core.run Sys2Proof.core (k + 1) s = Host.Core.run Sys2Proof.core k t := by
  have hcore : Sys2Proof.core.step s = .next t := h
  simp only [Host.Core.run, hcore]

/-- Fewer than `n` places on, a cyclic cursor is elsewhere. -/
theorem add_mod_ne_self {c k n : Nat} (hc : c < n) (hpos : 0 < k) (hk : k < n) : (c + k) % n ≠ c := by
  intro hself
  have hmod : c + k ≡ c + 0 [MOD n] := hself.trans (Nat.mod_eq_of_lt hc).symm
  have hzero : k % n = 0 % n := hmod.add_left_cancel'
  rw [Nat.mod_eq_of_lt hk, Nat.zero_mod] at hzero
  omega

/-- What iterations with these samples do to the ports and the cursor: the ports from the cursor on take the samples in
order, and no other port changes. -/
structure SamplesTaken (samples : List Bool) (s t : State) : Prop where
  cursor : t.pollCur.toNat = (s.pollCur.toNat + samples.length) % s.cfg.nPort
  taken : ∀ k, k < samples.length →
    some (flagCurrent (t.flags ((s.pollCur.toNat + k) % s.cfg.nPort))) = samples[k]?
  others : ∀ j, (∀ k, k < samples.length → j ≠ (s.pollCur.toNat + k) % s.cfg.nPort) → t.flags j = s.flags j

/-- One iteration before the others. The port it checks is not checked again, because fewer than `N_PORT` follow. -/
theorem SamplesTaken.cons {v : Bool} {samples : List Bool} (hinv : s.inv = true) (hfirst : IterationEffect v s u)
    (hrest : SamplesTaken samples u t) (hlen : samples.length < s.cfg.nPort) : SamplesTaken (v :: samples) s t := by
  have hcursor := (State.cursor_of_inv hinv).1
  have hplace (k : Nat) : (u.pollCur.toNat + k) % u.cfg.nPort = (s.pollCur.toNat + (k + 1)) % s.cfg.nPort := by
    rw [hfirst.pollCur, hfirst.frame.cfg_eq, Nat.mod_add_mod, Nat.add_right_comm, Nat.add_assoc]
  have hhere : s.pollCur.toNat = (s.pollCur.toNat + 0) % s.cfg.nPort := (Nat.mod_eq_of_lt hcursor).symm
  refine { cursor := hrest.cursor.trans (hplace _), taken := ?taken, others := ?others }
  case taken =>
    rintro (_ | k) hk
    · have hkept : t.flags s.pollCur.toNat = u.flags s.pollCur.toNat :=
        hrest.others _ fun k hk => hplace k ▸ (add_mod_ne_self hcursor k.succ_pos (by omega)).symm
      rw [← hhere, hkept, hfirst.checked, flagCurrent_checkedFlags, List.getElem?_cons_zero]
    · rw [← hplace, List.getElem?_cons_succ]
      exact hrest.taken k (Nat.lt_of_succ_lt_succ hk)
  case others =>
    intro j hj
    have hlater : t.flags j = u.flags j :=
      hrest.others j fun k hk => hplace k ▸ hj (k + 1) (Nat.succ_lt_succ hk)
    exact hlater.trans (hfirst.others j (hhere ▸ hj 0 (Nat.succ_pos _)))

/-- At most `N_PORT` iterations with nothing between them run through, by induction on the samples. -/
theorem exists_run_samples {es : List EnvEvent} (samples : List Bool) :
    ∀ {s : State}, s.AtRest → samples.length ≤ s.cfg.nPort → s.env = samples.map .iter ++ es →
      ∃ t, Host.Core.run Sys2Proof.core samples.length s = .next t ∧ t.env = es ∧ SamplesTaken samples s t := by
  induction samples with
  | nil =>
    intro s hrest _ henv
    have hcursor := (State.cursor_of_inv hrest.1).1
    exact ⟨s, rfl, henv, { cursor := (Nat.mod_eq_of_lt hcursor).symm, taken := nofun, others := fun _ _ => rfl }⟩
  | cons v samples ih =>
    intro s hrest hlen henv
    obtain ⟨u, hstep, hfirst⟩ := exists_step_iter hrest henv
    have hlater : samples.length < s.cfg.nPort := hlen
    have hroom : samples.length ≤ u.cfg.nPort := hfirst.frame.cfg_eq ▸ hlater.le
    have hidle : State.AtRest { u with env := samples.map .iter ++ es } := hfirst.atRest hrest
    obtain ⟨t, hrun, hes, htaken⟩ := ih hidle hroom rfl
    have hsince : SamplesTaken samples u t := ⟨htaken.cursor, htaken.taken, htaken.others⟩
    exact ⟨t, (run_succ_of_step hstep _).trans hrun, hes, hsince.cons hrest.1 hfirst hlater⟩

/-- Settles O57: `N_PORT` samples go once round the ports, so the cursor is back. -/
theorem everyPortIsSampledInACycle : Obligations.EveryPortIsSampledInACycle := by
  intro s samples es hrest hlen henv
  obtain ⟨t, hrun, hes, htaken⟩ := exists_run_samples samples hrest hlen.le henv
  have hcursor := (State.cursor_of_inv hrest.1).1
  rw [hlen] at hrun
  refine ⟨t, hrun, hes, BitVec.eq_of_toNat_eq ?_, fun k hk => htaken.taken k (hlen ▸ hk)⟩
  rw [htaken.cursor, hlen, Nat.add_mod_right, Nat.mod_eq_of_lt hcursor]

end Sys2Proof.Machine

/-! PROOFS. The transaction abort (spec/60_exceptions.md R252, R254, R256). What an abort leaves is read off `raise`.
That a transaction which aborts leaves the state it began in has two halves: no event before the commit writes a
persistent element, which stands above as R184, and no event that ends a transaction leaves a transaction register
behind. -/

namespace Sys2Proof.Machine

variable {s t u : State}

/-! ### The abort itself -/

theorem raise_samePersistent (c : AbortCause) (s : State) : s.SamePersistent (raise c s) := .refl s

/-- Settles O14: each transaction register, the persistent state and the record, by the laws of `raise`. -/
theorem abortDiscardsTheTransaction : Obligations.AbortDiscardsTheTransaction := fun s c =>
  ⟨raise_eng s c,
    ⟨raise_crc s c, raise_tag s c, raise_chan s c, raise_len s c, raise_buf s c, raise_idx s c, raise_echoLo s c,
      raise_echoHi s c⟩,
    raise_samePersistent c s, raise_out s c⟩

/-- At `IDLE` there is no transaction to abort (R258). -/
theorem envStep_abort_idle (hidle : s.eng = .idle) : envStep .abort s = .next s :=
  congrArg Host.Outcome.next (if_pos hidle)

/-- The environment's `ABORT` is no byte of a request. -/
theorem fetch_abort (cfg : Config) (es : List EnvEvent) : fetch cfg (.abort :: es) = none := rfl

/-- With `ABORT` next, the step is that event alone, at `IDLE` too. -/
theorem step_abort {es : List EnvEvent} (henv : s.env = .abort :: es) (h : envStep .abort s = .next t) :
    step s = .next { t with env := es } :=
  step_eq_next.mpr <| .inr
    ⟨fun _ => henv ▸ fetch_abort s.cfg es, microStep_eq_next.mpr (.inr ⟨.abort, es, t, henv, h, rfl⟩)⟩

/-- Settles O15: the step is the event, which is a bus-fault abort inside a transaction and nothing at `IDLE`. -/
theorem busAbortEndsAnyTransaction : Obligations.BusAbortEndsAnyTransaction := fun _ _ henv =>
  ⟨fun hbusy => step_abort henv (envStep_abort_busy hbusy), fun hidle => step_abort henv (envStep_abort_idle hidle)⟩

/-! ### No transaction register outlives its transaction -/

/-- At `IDLE` there is nothing left for `endTransaction` to discard (R40). -/
def State.DiscardedAtIdle (t : State) : Prop := t.eng = .idle → t.endTransaction = t

theorem State.DiscardedAtIdle.of_busy (h : t.eng ≠ .idle) : t.DiscardedAtIdle := fun hidle => absurd hidle h

theorem State.DiscardedAtIdle.endTransaction (u : State) : u.endTransaction.DiscardedAtIdle := fun _ => rfl

theorem State.DiscardedAtIdle.raise (c : AbortCause) (u : State) : (raise c u).DiscardedAtIdle := fun _ => rfl

theorem trailerStep_discardedAtIdle {after : State → State} (h : trailerStep after s = .next t)
    (hbusy : s.eng ≠ .idle) (hafter : ∀ u : State, u.eng ≠ .idle → (after u).eng ≠ .idle) : t.DiscardedAtIdle := by
  obtain ⟨c, i, -, -, rfl⟩ := trailerStep_eq_next.mp h
  split
  · exact .of_busy (hafter _ hbusy)
  · exact .of_busy hbusy

theorem echoStep_discardedAtIdle {commit : State → Result State} {e : Byte} (h : echoStep commit e s = .next t)
    (hbusy : s.eng ≠ .idle) (hcommit : ∀ u v, commit u = .next v → v.DiscardedAtIdle) : t.DiscardedAtIdle := by
  obtain ⟨i, -, ⟨-, rfl⟩ | ⟨-, lo, c, -, -, ⟨-, rfl⟩ | ⟨-, h⟩⟩⟩ := echoStep_eq_next.mp h
  · exact .of_busy hbusy
  · exact .raise _ _
  · exact hcommit _ _ h

theorem readCommit_discardedAtIdle (h : readCommit s = .next t) : t.DiscardedAtIdle := by
  obtain ⟨y, c, u, -, -, -, rfl⟩ := readCommit_eq_next h
  exact .endTransaction _

theorem portCommit_discardedAtIdle (h : portCommit s = .next t) : t.DiscardedAtIdle := by
  obtain ⟨y, c, n, v, u, -, -, -, -, -, rfl⟩ := portCommit_eq_next h
  exact .endTransaction _

theorem xwCommit_discardedAtIdle (h : xwCommit s = .next t) : t.DiscardedAtIdle := by
  obtain ⟨y, -, rfl⟩ := xwCommit_eq_next h
  exact .endTransaction _

theorem dispatchStep_discardedAtIdle {b : Byte} (h : dispatchStep b s = .next t) : t.DiscardedAtIdle := by
  rw [dispatchStep_eq] at h
  dsimp only at h
  split at h
  · cases h; exact .of_busy nofun
  · split at h <;> cases h
    · exact .of_busy nofun
    · exact .raise _ _

theorem xwNext_discardedAtIdle {y : Byte} {got : List Byte} (h : xwNext y got s = .next t) : t.DiscardedAtIdle := by
  obtain rfl | rfl | ⟨cause, rfl⟩ := xwNext_eq_next h
  · exact .of_busy nofun
  · exact .of_busy nofun
  · exact .raise _ _

theorem wrTagStep_discardedAtIdle {y : Byte} (h : wrTagStep y s = .next t) : t.DiscardedAtIdle := by
  obtain ⟨c, -, ⟨-, rfl⟩ | ⟨-, rfl⟩ | ⟨-, rfl⟩ | ⟨-, h⟩⟩ := wrTagStep_eq_next h
  · exact .raise _ _
  · exact .raise _ _
  · exact .of_busy nofun
  · exact xwNext_discardedAtIdle h

theorem xwReceiveStep_discardedAtIdle {b : Byte} (h : xwReceiveStep b s = .next t) (hbusy : s.eng ≠ .idle) :
    t.DiscardedAtIdle := by
  obtain ⟨got, c, y, -, -, -, h⟩ | ⟨-, h⟩ := xwReceiveStep_eq_next h
  · exact xwNext_discardedAtIdle h
  · exact echoStep_discardedAtIdle h hbusy fun _ _ => xwCommit_discardedAtIdle

/-- A received byte, by the engine's position: the transaction goes on, or it aborts or commits. -/
theorem receiveStep_discardedAtIdle {b : Byte} (h : receiveStep b s = .next t) : t.DiscardedAtIdle := by
  cases heng : s.eng <;> simp only [receiveStep, heng, reduceCtorEq] at h
  case idle => exact dispatchStep_discardedAtIdle h
  case rdTag =>
    obtain ⟨c, -, ⟨-, rfl⟩ | ⟨-, rfl⟩⟩ := rdTagStep_eq_next h
    · exact .raise _ _
    · exact .of_busy nofun
  case rdChan =>
    obtain ⟨c, y, -, -, ⟨cause, rfl, -⟩ | ⟨n, -, -, rfl⟩⟩ := rdChanStep_eq_next h
    · exact .raise _ _
    · exact .of_busy nofun
  case rdEchoRx => exact echoStep_discardedAtIdle h (by simp [heng]) fun _ _ => readCommit_discardedAtIdle
  case wrTag => exact wrTagStep_discardedAtIdle h
  case pwChan =>
    obtain ⟨c, -, rfl⟩ := pwChanStep_eq_next h
    split
    · exact .of_busy nofun
    · exact .raise _ _
  case pwLen =>
    obtain ⟨c, -, rfl⟩ := pwLenStep_eq_next h
    split
    · exact .of_busy nofun
    · exact .raise _ _
  case pwData =>
    obtain ⟨c, i, n, -, -, -, -, -, rfl⟩ := pwDataStep_eq_next h
    split
    · exact .of_busy nofun
    · exact .of_busy (by simp [heng])
  case pwEchoRx => exact echoStep_discardedAtIdle h (by simp [heng]) fun _ _ => portCommit_discardedAtIdle
  case xw => exact xwReceiveStep_discardedAtIdle h (by simp [heng])

/-- A transmitted byte, by the engine's position: only the length byte can end the transaction, by an abort. -/
theorem transmitStep_discardedAtIdle (h : transmitStep s = .next t) : t.DiscardedAtIdle := by
  cases heng : s.eng <;> simp only [transmitStep, heng, reduceCtorEq] at h
  case rdLenTx =>
    obtain ⟨n, c, y, k, -, -, -, -, ⟨cause, -, rfl⟩ | ⟨bytes, -, -, rfl⟩⟩ := rdLenStep_eq_next h
    · exact .raise _ _
    · exact .of_busy nofun
  case rdDataTx =>
    obtain ⟨i, n, b, c, -, -, -, -, -, rfl⟩ := rdDataStep_eq_next h
    split
    · exact .of_busy nofun
    · exact .of_busy (by simp [heng])
  case rdCrcTx => exact trailerStep_discardedAtIdle h (by simp [heng]) fun _ _ => nofun
  case pwCrcTx => exact trailerStep_discardedAtIdle h (by simp [heng]) fun _ _ => nofun
  case xw => exact trailerStep_discardedAtIdle (xwTransmitStep_eq_next h).2 (by simp [heng]) fun _ hbusy => hbusy

/-! ### A transaction that aborts leaves the state it began in -/

theorem State.SamePersistent.trans (h₁ : s.SamePersistent t) (h₂ : t.SamePersistent u) : s.SamePersistent u := by
  obtain ⟨hcfg, hports, hcur, hmax, hcache, halert, hext⟩ := h₁
  obtain ⟨kcfg, kports, kcur, kmax, kcache, kalert, kext⟩ := h₂
  exact ⟨kcfg.trans hcfg, kports.trans hports, kcur.trans hcur, kmax.trans hmax, kcache.trans hcache,
    kalert.trans halert, kext.trans hext⟩

/-- With the transaction discarded, only the persistent state, the script and the record are left. -/
theorem State.SamePersistent.endTransaction_eq (h : s.SamePersistent t) :
    t.endTransaction = { s.endTransaction with env := t.env, out := t.out } := by
  obtain ⟨hcfg, hports, hcur, hmax, hcache, halert, hext⟩ := h
  simp [State.endTransaction, hcfg, hports, hcur, hmax, hcache, halert, hext]

/-- The last entry of the record is an abort (log entry 10). -/
def State.RecordsAbort (t : State) : Prop := ∃ c, t.out.getLast? = some (.aborted c)

/-- R256 for a transaction that began in `s`: if it ended in `t` by an abort, `t` is `s` but for script and record. -/
def State.PreciseAbort (s t : State) : Prop :=
  t.eng = .idle → t.RecordsAbort → t = { s with env := t.env, out := t.out }

theorem State.PreciseAbort.withEnv (h : s.PreciseAbort t) (es : List EnvEvent) :
    s.PreciseAbort { t with env := es } := fun hidle habort =>
  congrArg (fun u : State => { u with env := es }) (h hidle habort)

/-- Inside a transaction only the answers to bus operations are events (R60, R230). -/
theorem answersBus_of_busy {e : EnvEvent} (hbusy : u.eng ≠ .idle) (h : envStep e u = .next t) :
    e.answersBus = true := by
  cases e with
  | rx b => rfl
  | txDone => rfl
  | abort => rfl
  | iter sample => exact absurd (atIdle_eq_next.mp h).1 hbusy
  | ext y body => exact absurd (atIdle_eq_next.mp h).1 hbusy

theorem envStep_discardedAtIdle {e : EnvEvent} (hbusy : u.eng ≠ .idle) (h : envStep e u = .next t) :
    t.DiscardedAtIdle := by
  cases e with
  | rx b => exact receiveStep_discardedAtIdle h
  | txDone => exact transmitStep_discardedAtIdle h
  | abort =>
    rw [envStep_abort_busy hbusy] at h
    cases h
    exact .raise _ _
  | iter sample => exact absurd (atIdle_eq_next.mp h).1 hbusy
  | ext y body => exact absurd (atIdle_eq_next.mp h).1 hbusy

/-- An event that leaves the transaction in progress or aborts it writes nothing persistent: R184. -/
theorem envStep_samePersistent_of_not_committed {e : EnvEvent} (hbus : e.answersBus = true)
    (h : envStep e u = .next t) (hnot : t.eng ≠ .idle ∨ t.RecordsAbort) : u.SamePersistent t :=
  (nothingPersistentIsWrittenBeforeTheCommit u t e hbus h).1 hnot

/-- The event that ends a transaction by an abort: the persistent state is still that of `s`, and what the transaction
held besides is discarded, as it was in `s`. -/
theorem State.AtRest.preciseAbort_of_envStep {e : EnvEvent} (hrest : s.AtRest) (hsame : s.SamePersistent u)
    (hbus : e.answersBus = true) (h : envStep e u = .next t) (hdiscarded : t.DiscardedAtIdle) : s.PreciseAbort t := by
  intro hidle habort
  have hlast : u.SamePersistent t := envStep_samePersistent_of_not_committed hbus h (.inr habort)
  calc t
    _ = t.endTransaction := (hdiscarded hidle).symm
    _ = { s.endTransaction with env := t.env, out := t.out } := (hsame.trans hlast).endTransaction_eq
    _ = { s with env := t.env, out := t.out } := by rw [hrest.endTransaction_eq]

/-- A run from inside a transaction that began in `s`. -/
theorem State.AtRest.preciseAbort_of_serve_busy {es : List EnvEvent} (hrest : s.AtRest) (hsame : s.SamePersistent u)
    (hbusy : u.eng ≠ .idle) (h : serve es u = .next t) : s.PreciseAbort t :=
  serve_induction (P := fun u => s.SamePersistent u ∧ u.eng ≠ .idle) (Q := s.PreciseAbort)
    (busy := fun _ _ _ ⟨hsame, hbusy⟩ he hstays =>
      ⟨hsame.trans (envStep_samePersistent_of_not_committed (answersBus_of_busy hbusy he) he (.inl hstays)), hstays⟩)
    (ends := fun _ _ _ ⟨hsame, hbusy⟩ he _ =>
      hrest.preciseAbort_of_envStep hsame (answersBus_of_busy hbusy he) he (envStep_discardedAtIdle hbusy he))
    (waits := fun _ ⟨_, hbusy⟩ hidle => absurd hidle hbusy)
    (env := fun _ es hQ => hQ.withEnv es) ⟨hsame, hbusy⟩ h

/-- A transaction begins with a received byte, which may end it at once. -/
theorem State.AtRest.preciseAbort_of_serve {b : Byte} {es : List EnvEvent} (hrest : s.AtRest)
    (h : serve (.rx b :: es) s = .next t) : s.PreciseAbort t := by
  cases hu : envStep (.rx b) s with
  | next u =>
    by_cases hidle : u.eng = .idle
    · rw [serve_cons_idle hu hidle] at h
      cases h
      exact (hrest.preciseAbort_of_envStep (.refl s) rfl hu (receiveStep_discardedAtIdle hu)).withEnv es
    · rw [serve_cons_busy hu hidle] at h
      exact hrest.preciseAbort_of_serve_busy (envStep_samePersistent_of_not_committed rfl hu (.inl hidle)) hidle h
  | fault f => simp [serve, hu] at h
  | refused q => simp [serve, hu] at h

theorem exists_encode_eq_cons (cfg : Config) (i : Instr) : ∃ b bytes, encode cfg i = b :: bytes := by
  cases i <;> exact ⟨_, _, rfl⟩

/-- Settles O16: an instruction is a run that its first request byte begins. -/
theorem abortIsPreciseForEveryInstruction : Obligations.AbortIsPreciseForEveryInstruction := by
  intro i s t c hrest h hidle habort
  obtain ⟨b, bytes, hbytes⟩ := exists_encode_eq_cons s.cfg i
  rw [exec_eq_transact, transact, hbytes] at h
  exact hrest.preciseAbort_of_serve h hidle ⟨c, habort⟩

end Sys2Proof.Machine

/-! PROOFS. Power-on reset (spec/70_reset_and_hazards.md R281). Reset gives each port its initial flags, in every
configuration; the default configuration lists none, so there every port holds 0x00, which is mode Z in layout A. -/

namespace Sys2Proof.Machine

/-- The ports after reset hold `PORT_INIT_FLAGS`, and 0x00 where none is listed. -/
@[simp] theorem State.resetWith_flags (cfg : Config) (i : Nat) :
    (State.resetWith cfg).flags i = cfg.portInitFlags[i]?.getD 0x00 := by
  have hread := Memory.read_ofFlags cfg.portInitFlags 0 i
  rwa [Nat.zero_add] at hread

/-- The default configuration lists no initial flags (R10). -/
@[simp] theorem State.reset_flags (i : Nat) : State.reset.flags i = 0x00 :=
  State.resetWith_flags Config.default i

/-- A clear flags byte is in layout A, mode Z (R100, R101). -/
theorem layoutA_modeZ_of_clear : flagAlt 0x00 = false ∧ mode 0x00 = .z := by decide

/-- Settles O9: reset writes every register outright, so only the ports, held as a sparse space, need an argument. -/
theorem powerOnResetValues : Obligations.PowerOnResetValues := by
  refine ⟨fun cfg => ?_, fun i _ => ?_⟩
  · exact ⟨rfl, ⟨rfl, rfl, rfl, rfl, rfl, rfl, rfl, rfl⟩, State.resetWith_flags cfg, rfl, rfl, rfl, rfl⟩
  · rw [State.reset_flags]
    exact ⟨rfl, layoutA_modeZ_of_clear⟩

end Sys2Proof.Machine

/-! PROOFS. Requests and their bytes (spec/30_encoding.md R92 to R99, R118). The decoder reads a canonical instruction back
from its encoding; and whatever one of its parts reads is canonical, and the bytes it has read are the encoding. -/

namespace Sys2Proof

variable {cfg : Config} {bytes rest : List Byte} {i : Instr}

/-- The decoder reads a canonical instruction back, whatever follows it on the bus. -/
theorem decode_encode_append (h : i.wf cfg = true) (rest : List Byte) :
    decode cfg (encode cfg i ++ rest) = .ok (i, rest) := by
  cases i with
  | genericRead t c =>
    have ht : t ≠ cfg.portTag := by simpa [Instr.wf] using h
    simp [encode, decode, decodeRead, ht]
  | genericWrite t =>
    have ht : t ≠ cfg.portTag := by simpa [Instr.wf] using h
    simp [encode, decode, decodeWrite, ht]
  | unknownFunction b =>
    obtain ⟨hread, hwrite⟩ : b ≠ 0xF2 ∧ b ≠ 0xF4 := by simpa [Instr.wf] using h
    exact (if_neg hread).trans (if_neg hwrite)
  | pbitmap => simp [encode, decode, decodeRead]
  | preadStatus k =>
    have hk : k ≠ 0 := by simpa [Instr.wf] using h
    simpa [encode, decode, decodeRead] using hk
  | pset k v => simp [encode, decode, decodeWrite, decodePortWrite]
  | pflags k v m => simp [encode, decode, decodeWrite, decodePortWrite]
  | portWriteBadLength k n =>
    obtain ⟨h1, h2⟩ : n ≠ 1 ∧ n ≠ 2 := by simpa [Instr.wf] using h
    have hport : decodePortWrite (k :: n :: rest) = .ok (.portWriteBadLength k n, rest) :=
      (if_neg h1).trans (if_neg h2)
    simpa [encode, decode, decodeWrite] using hport

/-- What is read after `F2` (R93, R104 to R106). -/
theorem encodes_of_decodeRead (h : decodeRead cfg bytes = .ok (i, rest)) :
    i.wf cfg = true ∧ 0xF2 :: bytes = encode cfg i ++ rest := by
  unfold decodeRead at h
  split at h
  next t c left =>
    split_ifs at h with ht hc <;> cases h
    · exact ⟨rfl, by rw [ht, hc]; rfl⟩
    · exact ⟨by simpa [Instr.wf] using hc, by rw [ht]; rfl⟩
    · exact ⟨by simpa [Instr.wf] using ht, rfl⟩
  next => cases h

/-- What is read after `F4 PORT_TAG` (R97, R98, R112). -/
theorem encodes_of_decodePortWrite (h : decodePortWrite bytes = .ok (i, rest)) :
    i.wf cfg = true ∧ 0xF4 :: cfg.portTag :: bytes = encode cfg i ++ rest := by
  unfold decodePortWrite at h
  split at h
  next k n left =>
    split_ifs at h with h1 h2
    · split at h <;> cases h
      exact ⟨rfl, by rw [h1]; rfl⟩
    · split at h <;> cases h
      exact ⟨rfl, by rw [h2]; rfl⟩
    · cases h
      exact ⟨by simpa [Instr.wf] using ⟨h1, h2⟩, rfl⟩
  next => cases h

/-- What is read after `F4` (R96). -/
theorem encodes_of_decodeWrite (h : decodeWrite cfg bytes = .ok (i, rest)) :
    i.wf cfg = true ∧ 0xF4 :: bytes = encode cfg i ++ rest := by
  unfold decodeWrite at h
  split at h
  next t left =>
    split_ifs at h with ht
    · exact ht ▸ encodes_of_decodePortWrite h
    · cases h
      exact ⟨by simpa [Instr.wf] using ht, rfl⟩
  next => cases h

/-- What is read at all is canonical, and its encoding is what the bytes begin with. -/
theorem encodes_of_decode (h : decode cfg bytes = .ok (i, rest)) :
    i.wf cfg = true ∧ bytes = encode cfg i ++ rest := by
  unfold decode at h
  split at h
  next => cases h
  next b left =>
    split_ifs at h with hread hwrite
    · exact hread ▸ encodes_of_decodeRead h
    · exact hwrite ▸ encodes_of_decodeWrite h
    · cases h
      exact ⟨by simpa [Instr.wf] using ⟨hread, hwrite⟩, rfl⟩

/-- Settles O1: what is decoded is an encoding, and an encoding is decoded back. -/
theorem decodeReadsExactlyTheEncodedRequest : Obligations.DecodeReadsExactlyTheEncodedRequest := by
  intro cfg bytes rest i
  refine ⟨encodes_of_decode, ?_⟩
  rintro ⟨hwf, rfl⟩
  exact decode_encode_append hwf rest

/-- Settles O2: each request is the encoding of its instruction, which is canonical in the default configuration. -/
theorem specRequestsDecode : Obligations.SpecRequestsDecode := by
  have hreads : ∀ i : Instr, i.wf Config.default = true →
      decode Config.default (encode Config.default i) = .ok (i, []) := fun i hwf => by
    simpa using decode_encode_append hwf []
  exact ⟨hreads (.genericRead 0x05 0x00) rfl, hreads (.genericWrite 0x00) rfl, hreads (.unknownFunction 0x33) rfl,
    hreads .pbitmap rfl, hreads (.preadStatus 0x03) rfl, hreads (.pset 0x01 0x01) rfl,
    hreads (.pflags 0x03 0x43 0x43) rfl, hreads (.portWriteBadLength 0x01 0x03) rfl⟩

end Sys2Proof

namespace Sys2Proof.Machine

variable {s : State}

/-! ### The request at the head of the script -/

/-- The leading bytes of a script stand at its head. -/
theorem map_rx_leadingBytes_append (env : List EnvEvent) :
    (leadingBytes env).map .rx ++ env.drop (leadingBytes env).length = env := by
  induction env with
  | nil => rfl
  | cons e es ih =>
    cases e with
    | rx b => simpa [leadingBytes] using ih
    | txDone => rfl
    | abort => rfl
    | iter sample => rfl
    | ext t body => rfl

/-- The request that is fetched stands byte by byte at the head of the script. -/
theorem script_of_fetch {cfg : Config} {env rest : List EnvEvent} {i : Instr} (h : fetch cfg env = some (i, rest)) :
    env = (encode cfg i).map .rx ++ rest := by
  unfold fetch at h
  split at h
  next j left hdecode =>
    cases h
    obtain ⟨-, hbytes⟩ := encodes_of_decode hdecode
    have hlength : (leadingBytes env).length - left.length = (encode cfg i).length := by simp [hbytes]
    conv_lhs => rw [← map_rx_leadingBytes_append env, hbytes]
    conv_rhs => rw [hlength, ← map_rx_leadingBytes_append env, hbytes]
    simp
  next => cases h

/-- At `IDLE` with a whole request next, the step is its instruction. -/
theorem step_of_fetch {i : Instr} {rest : List EnvEvent} (hidle : s.eng = .idle)
    (hfetch : fetch s.cfg s.env = some (i, rest)) : step s = exec i { s with env := rest } := by
  simp [step, hidle, hfetch]

/-- Otherwise the step is one event. -/
theorem step_of_no_fetch (h : s.eng = .idle → fetch s.cfg s.env = none) : step s = microStep s := by
  unfold step
  split
  next i rest hidle hfetch => cases hfetch.symm.trans (h hidle)
  next => rfl

/-- Either a whole request is next at `IDLE`, or the step is one event. -/
theorem fetched_or_not (s : State) :
    (∃ i rest, s.eng = .idle ∧ fetch s.cfg s.env = some (i, rest)) ∨
      (s.eng = .idle → fetch s.cfg s.env = none) := by
  cases hfetch : fetch s.cfg s.env with
  | none => exact .inr fun _ => rfl
  | some p =>
    by_cases hidle : s.eng = .idle
    · exact .inl ⟨p.1, p.2, hidle, rfl⟩
    · exact .inr fun h => absurd h hidle

/-- Settles O3: what the leading bytes decode to is what is fetched. -/
theorem stepRunsTheDecodedInstruction : Obligations.StepRunsTheDecodedInstruction := by
  intro s i left hidle hdecode
  exact step_of_fetch hidle (by simp [fetch, hdecode])

/-- Settles O12: an empty script holds no request, and no event. -/
theorem unansweredOperationWaits : Obligations.UnansweredOperationWaits := by
  intro s henv
  rw [step_of_no_fetch fun _ => by rw [henv]; rfl]
  exact microStep_eq_next.mpr (.inl ⟨henv, rfl⟩)

end Sys2Proof.Machine

/-! PROOFS. What the machine does not read (spec/10_state.md R46, spec/45_mainloop.md R237; log entry 3): `CACHE`, and the
script beyond the event that is taken. An operation is blind if changing the two beforehand comes to changing them
afterwards. Every engine step is blind, put together from blind operations; the mainloop is blind up to the cycle start
that writes `CACHE`. From this follow that a step is a run of micro steps, that no result depends on `CACHE`, and that a
generic write of `PORT_TAG` is the port write. -/

namespace Sys2Proof.Machine

variable {s t u : State} {α : Type}

/-! ### Changing what is not read -/

/-- The state with another `CACHE` and another script. -/
abbrev State.aside (cache : Byte → Byte) (script : List EnvEvent → List EnvEvent) (s : State) : State :=
  { s with cache := cache s.cache, env := script s.env }

/-- A result with its next state changed. -/
def mapNext (f : State → State) (r : Result State) : Result State :=
  match r with
  | .next s => .next (f s)
  | .fault e => .fault e
  | .refused q => .refused q

theorem mapNext_id (r : Result State) : mapNext id r = r := by cases r <;> rfl

/-- Replacing the script is a change of what is not read. -/
theorem withEnv_eq_mapNext (es : List EnvEvent) (r : Result State) :
    withEnv es r = mapNext (State.aside id fun _ => es) r := by
  cases r <;> rfl

/-- Of two scripts put into a result the later stays. -/
theorem withEnv_withEnv (es es' : List EnvEvent) (r : Result State) : withEnv es (withEnv es' r) = withEnv es r := by
  cases r <;> rfl

/-- `k` reads neither `CACHE` nor the script, and passes both on. -/
def Blind (k : State → Result State) : Prop :=
  ∀ g h s, k (s.aside g h) = mapNext (State.aside g h) (k s)

/-! ### The shared operations are blind -/

theorem Blind.comp {k : State → Result State} {f : State → State} (hk : Blind k)
    (hf : ∀ g h s, f (s.aside g h) = (f s).aside g h) : Blind fun s => k (f s) := fun g h s =>
  (congrArg k (hf g h s)).trans (hk g h (f s))

theorem Blind.next {f : State → State} (hf : ∀ g h s, f (s.aside g h) = (f s).aside g h) :
    Blind fun s => .next (f s) := fun g h s =>
  congrArg Host.Outcome.next (hf g h s)

theorem Blind.need {r : TxnReg} {p : State → Option α} {k : α → State → Result State}
    (hp : ∀ g h s, p (s.aside g h) = p s) (hk : ∀ a, Blind (k a)) : Blind fun s => need r (p s) fun a => k a s := by
  intro g h s
  dsimp only
  rw [hp]
  cases p s with
  | none => rfl
  | some a => exact hk a g h s

theorem Blind.foldByte {b : Byte} {f : State → State} {k : State → Result State}
    (hf : ∀ g h s, f (s.aside g h) = (f s).aside g h) (hk : Blind k) : Blind fun s => foldByte b (f s) k :=
  .comp (k := fun s => Machine.foldByte b s k) (.need (fun _ _ _ => rfl) fun _ => hk.comp fun _ _ _ => rfl) hf

theorem Blind.orAbort {p : State → Cap α} {f : State → State} {k : α → State → Result State}
    (hp : ∀ g h s, p (s.aside g h) = p s) (hf : ∀ g h s, f (s.aside g h) = (f s).aside g h) (hk : ∀ a, Blind (k a)) :
    Blind fun s => orAbort (p s) (f s) fun a => k a s := by
  intro g h s
  dsimp only
  rw [hp, hf]
  cases p s with
  | ok a => exact hk a g h s
  | abort cause => rfl
  | fault f => rfl

theorem Blind.orFault {p : State → Except Fault State} {k : State → Result State}
    (hp : ∀ g h s, p (s.aside g h) = (p s).map (State.aside g h)) (hk : Blind k) : Blind fun s => orFault (p s) k := by
  intro g h s
  dsimp only
  rw [hp]
  cases p s with
  | ok t => exact hk g h t
  | error f => rfl

theorem Blind.ite {p : State → Prop} [∀ s, Decidable (p s)] {k l : State → Result State}
    (hp : ∀ g h s, p (s.aside g h) ↔ p s) (hk : Blind k) (hl : Blind l) : Blind fun s => if p s then k s else l s := by
  intro g h s
  dsimp only
  by_cases hs : p s
  · rw [if_pos ((hp g h s).mpr hs), if_pos hs, hk]
  · rw [if_neg (hs ∘ (hp g h s).mp), if_neg hs, hl]

theorem Blind.readBuf {i : Nat} {k : Byte → State → Result State} (hk : ∀ b, Blind (k b)) :
    Blind fun s => readBuf s i fun b => k b s := by
  refine .need (fun _ _ _ => rfl) fun n g h s => ?_
  dsimp only
  split_ifs
  · cases s.buf[i]? with
    | none => rfl
    | some b => exact hk b g h s
  · rfl

theorem Blind.writeBuf {i : Nat} {b : Byte} {k : State → Result State} (hk : Blind k) :
    Blind fun s => writeBuf i b s k :=
  .ite (fun _ _ _ => .rfl) (hk.comp fun _ _ _ => rfl) fun _ _ _ => rfl

theorem Blind.fillBuf {bytes : List Byte} {k : State → Result State} (hk : Blind k) :
    Blind fun s => fillBuf bytes s k :=
  .ite (fun _ _ _ => .rfl) (hk.comp fun _ _ _ => rfl) fun _ _ _ => rfl

theorem Blind.trailerStep {after : State → State} (hafter : ∀ g h s, after (s.aside g h) = (after s).aside g h) :
    Blind (trailerStep after) := by
  refine .need (fun _ _ _ => rfl) fun c => .need (fun _ _ _ => rfl) fun i => .ite (fun _ _ _ => .rfl) ?_ ?_
  · exact .comp (k := fun s => .next (after s)) (.next hafter) fun _ _ _ => rfl
  · exact .next fun _ _ _ => rfl

theorem Blind.echoStep {commit : State → Result State} {e : Byte} (hcommit : Blind commit) :
    Blind (echoStep commit e) := by
  refine .need (fun _ _ _ => rfl) fun i => .ite (fun _ _ _ => .rfl) (fun _ _ _ => rfl) ?_
  refine .need (fun _ _ _ => rfl) fun lo => .need (fun _ _ _ => rfl) fun hi => .need (fun _ _ _ => rfl) fun c => ?_
  exact .ite (fun _ _ _ => .rfl) (fun _ _ _ => rfl) (hcommit.comp fun _ _ _ => rfl)

/-! ### Every engine position is blind -/

theorem blind_dispatchStep (b : Byte) : Blind (dispatchStep b) := fun g h s => by
  rw [dispatchStep_eq, dispatchStep_eq]
  dsimp only
  split_ifs <;> rfl

theorem blind_rdTagStep (y : Byte) : Blind (rdTagStep y) :=
  .foldByte (fun _ _ _ => rfl) fun g h s => by
    dsimp only
    cases lookup s.cfg y <;> rfl

theorem blind_rdChanStep (c : Byte) : Blind (rdChanStep c) := by
  refine .foldByte (fun _ _ _ => rfl) <| .need (fun _ _ _ => rfl) fun y => ?_
  refine .orAbort (fun _ _ _ => readLength_congr rfl rfl y c) (fun _ _ _ => rfl) fun n g h s => ?_
  dsimp only
  cases checkLength s.cfg n <;> rfl

theorem blind_rdLenStep : Blind rdLenStep := by
  refine .need (fun _ _ _ => rfl) fun n => .foldByte (fun _ _ _ => rfl) ?_
  refine .need (fun _ _ _ => rfl) fun y => .need (fun _ _ _ => rfl) fun c => ?_
  refine .orAbort (fun _ _ _ => readPayload_congr rfl rfl rfl y c) (fun _ _ _ => rfl) fun bytes => .fillBuf ?_
  exact .next fun _ _ _ => rfl

theorem blind_rdDataStep : Blind rdDataStep := by
  refine .need (fun _ _ _ => rfl) fun i => .readBuf fun b => .need (fun _ _ _ => rfl) fun n => ?_
  refine .foldByte (fun _ _ _ => rfl) ?_
  exact .ite (fun _ _ _ => .rfl) (.next fun _ _ _ => rfl) (.next fun _ _ _ => rfl)

/-- `read_done` acts on the ports, which are no part of what is set aside. -/
theorem readDone_aside (y c : Byte) (g : Byte → Byte) (h : List EnvEvent → List EnvEvent) (s : State) :
    readDone y c (s.aside g h) = (readDone y c s).map (State.aside g h) := by
  have hread : readPort (s.aside g h) (portOf c) = readPort s (portOf c) := rfl
  simp only [readDone, portReadDone, hread]
  split
  · split_ifs
    · rfl
    · cases readPort s (portOf c) <;> rfl
  · rfl

theorem portSet_aside (i : Nat) (v : Bool) (g : Byte → Byte) (h : List EnvEvent → List EnvEvent) (s : State) :
    portSet i v (s.aside g h) = (portSet i v s).map (State.aside g h) := by
  have hread : readPort (s.aside g h) i = readPort s i := rfl
  simp only [portSet, hread]
  cases readPort s i with
  | ok f => dsimp only; split_ifs <;> rfl
  | error e => rfl

theorem portMaskedWrite_aside (i : Nat) (v m : Byte) (g : Byte → Byte) (h : List EnvEvent → List EnvEvent)
    (s : State) : portMaskedWrite i v m (s.aside g h) = (portMaskedWrite i v m s).map (State.aside g h) := by
  have hread : readPort (s.aside g h) i = readPort s i := rfl
  simp only [portMaskedWrite, hread]
  cases readPort s i <;> rfl

theorem portCheck_aside (i : Nat) (v : Bool) (g : Byte → Byte) (h : List EnvEvent → List EnvEvent) (s : State) :
    portCheck i v (s.aside g h) = (portCheck i v s).map (State.aside g h) := by
  have hread : readPort (s.aside g h) i = readPort s i := rfl
  simp only [portCheck, hread]
  cases readPort s i with
  | ok f => dsimp only; split_ifs <;> rfl
  | error e => rfl

theorem blind_readCommit : Blind readCommit :=
  .need (fun _ _ _ => rfl) fun y => .need (fun _ _ _ => rfl) fun c =>
    .orFault (readDone_aside y c) (.next fun _ _ _ => rfl)

theorem blind_writeDone (y : Byte) : Blind (writeDone y) := .next fun _ _ _ => rfl

theorem blind_portCommit : Blind portCommit := by
  refine .need (fun _ _ _ => rfl) fun y => .need (fun _ _ _ => rfl) fun c => .need (fun _ _ _ => rfl) fun n => ?_
  refine .readBuf fun v => .ite (fun _ _ _ => .rfl) ?_ <| .readBuf fun m => ?_
  · exact .orFault (portSet_aside _ _) (blind_writeDone y)
  · exact .orFault (portMaskedWrite_aside _ _ _) (blind_writeDone y)

theorem blind_xwCommit : Blind xwCommit := .need (fun _ _ _ => rfl) blind_writeDone

theorem blind_xwNext (y : Byte) (got : List Byte) : Blind (xwNext y got) := fun g h s => by
  have hbody : extBody (s.aside g h) y = extBody s y := rfl
  rw [xwNext_eq, xwNext_eq, hbody]
  cases extOp (extBody s y) got <;> rfl

theorem blind_wrTagStep (y : Byte) : Blind (wrTagStep y) :=
  .foldByte (fun _ _ _ => rfl) fun g h s => by
    dsimp only
    rcases lookup s.cfg y with _ | _ | _ | _
    · rfl
    · rfl
    · rfl
    · exact (blind_xwNext y []).comp (f := fun s => { s with tag := some y }) (fun _ _ _ => rfl) g h s

theorem blind_pwChanStep (c : Byte) : Blind (pwChanStep c) :=
  .foldByte (fun _ _ _ => rfl) <| .ite (fun _ _ _ => .rfl) (.next fun _ _ _ => rfl) (.next fun _ _ _ => rfl)

theorem blind_pwLenStep (n : Byte) : Blind (pwLenStep n) :=
  .foldByte (fun _ _ _ => rfl) <| .ite (fun _ _ _ => .rfl) (.next fun _ _ _ => rfl) (.next fun _ _ _ => rfl)

theorem blind_pwDataStep (d : Byte) : Blind (pwDataStep d) := by
  refine .foldByte (fun _ _ _ => rfl) <| .need (fun _ _ _ => rfl) fun i => .need (fun _ _ _ => rfl) fun n => ?_
  exact .writeBuf <| .ite (fun _ _ _ => .rfl) (.next fun _ _ _ => rfl) (.next fun _ _ _ => rfl)

theorem blind_xwReceiveStep (b : Byte) : Blind (xwReceiveStep b) := by
  refine .need (fun _ _ _ => rfl) fun phase => ?_
  cases phase with
  | receive got =>
    refine .foldByte (fun _ _ _ => rfl) <| .need (fun _ _ _ => rfl) fun y => ?_
    exact blind_xwNext y (got ++ [b])
  | trailer => exact fun _ _ _ => rfl
  | echo => exact .echoStep blind_xwCommit

theorem blind_xwTransmitStep : Blind xwTransmitStep := by
  refine .need (fun _ _ _ => rfl) fun phase => ?_
  cases phase with
  | receive got => exact fun _ _ _ => rfl
  | trailer => exact .trailerStep fun _ _ _ => rfl
  | echo => exact fun _ _ _ => rfl

theorem blind_receiveStep (b : Byte) : Blind (receiveStep b) := fun g h s => by
  cases heng : s.eng <;> simp only [receiveStep, heng]
  case idle => exact blind_dispatchStep b g h s
  case rdTag => exact blind_rdTagStep b g h s
  case rdChan => exact blind_rdChanStep b g h s
  case rdEchoRx => exact Blind.echoStep blind_readCommit g h s
  case wrTag => exact blind_wrTagStep b g h s
  case pwChan => exact blind_pwChanStep b g h s
  case pwLen => exact blind_pwLenStep b g h s
  case pwData => exact blind_pwDataStep b g h s
  case pwEchoRx => exact Blind.echoStep blind_portCommit g h s
  case xw => exact blind_xwReceiveStep b g h s
  all_goals rfl

theorem blind_transmitStep : Blind transmitStep := fun g h s => by
  cases heng : s.eng <;> simp only [transmitStep, heng]
  case rdLenTx => exact blind_rdLenStep g h s
  case rdDataTx => exact blind_rdDataStep g h s
  case rdCrcTx => exact Blind.trailerStep (fun _ _ _ => rfl) g h s
  case pwCrcTx => exact Blind.trailerStep (fun _ _ _ => rfl) g h s
  case xw => exact blind_xwTransmitStep g h s
  all_goals rfl

/-! ### Events and runs -/

/-- The mainloop after the cycle start is blind. -/
theorem blind_mainloopTail (i : Nat) (v : Bool) : Blind fun s =>
    orFault (portCheck i v s) fun s => .next (aggregateAlerts (advanceCursor (noteMaximum s))) := by
  refine .orFault (portCheck_aside i v) (.next fun g h s => ?_)
  have hflags : (s.aside g h).flags (s.aside g h).pollCur.toNat = s.flags s.pollCur.toNat := rfl
  unfold noteMaximum
  rw [hflags]
  split_ifs <;> rfl

/-- The cycle start overwrites `CACHE`, whatever it held (R231). -/
theorem cycleStart_aside (g : Byte → Byte) (h : List EnvEvent → List EnvEvent) (s : State) :
    cycleStart (s.aside g h) = (cycleStart s).aside (if s.pollCur = 0 then id else g) h := by
  unfold cycleStart
  dsimp only
  split_ifs <;> rfl

theorem mainloopIteration_aside (v : Bool) (g : Byte → Byte) (h : List EnvEvent → List EnvEvent) (s : State) :
    mainloopIteration v (s.aside g h) =
      mapNext (State.aside (if s.pollCur = 0 then id else g) h) (mainloopIteration v s) := by
  unfold mainloopIteration
  rw [cycleStart_aside]
  exact blind_mainloopTail _ v _ h _

theorem atIdle_aside {g g' : Byte → Byte} {h : List EnvEvent → List EnvEvent} {r r' : Result State}
    (hr : r' = mapNext (State.aside g' h) r) : atIdle (s.aside g h) r' = mapNext (State.aside g' h) (atIdle s r) := by
  unfold atIdle
  dsimp only
  split_ifs
  · exact hr
  · rfl

/-- An event passes the script on, and `CACHE` too unless it overwrites it. -/
theorem envStep_aside (e : EnvEvent) (g : Byte → Byte) (h : List EnvEvent → List EnvEvent) (s : State) :
    ∃ g', (g' = g ∨ g' = id) ∧ envStep e (s.aside g h) = mapNext (State.aside g' h) (envStep e s) := by
  cases e with
  | rx b => exact ⟨g, .inl rfl, blind_receiveStep b g h s⟩
  | txDone => exact ⟨g, .inl rfl, blind_transmitStep g h s⟩
  | abort =>
    refine ⟨g, .inl rfl, congrArg Host.Outcome.next ?_⟩
    unfold busAbort
    dsimp only
    split_ifs <;> rfl
  | iter v =>
    refine ⟨if s.pollCur = 0 then id else g, ?_, atIdle_aside (mainloopIteration_aside v g h s)⟩
    split_ifs
    · exact .inr rfl
    · exact .inl rfl
  | ext y body =>
    refine ⟨g, .inl rfl, atIdle_aside ?_⟩
    unfold extStep
    dsimp only
    split_ifs <;> rfl

/-- No event reads the script. -/
theorem envStep_script (e : EnvEvent) (es : List EnvEvent) (s : State) :
    envStep e { s with env := es } = withEnv es (envStep e s) := by
  obtain ⟨g, hg, h⟩ := envStep_aside e id (fun _ => es) s
  obtain rfl : g = id := hg.elim id id
  rw [withEnv_eq_mapNext]
  exact h

/-- A run passes `CACHE` on unless it overwrites it, and leaves the script it was given. -/
theorem serve_aside (es : List EnvEvent) (g : Byte → Byte) (h : List EnvEvent → List EnvEvent) (s : State) :
    ∃ g', (g' = g ∨ g' = id) ∧ serve es (s.aside g h) = mapNext (State.aside g' id) (serve es s) := by
  induction es generalizing g s with
  | nil => exact ⟨g, .inl rfl, rfl⟩
  | cons e es ih =>
    obtain ⟨g₁, hg₁, hstep⟩ := envStep_aside e g h s
    cases hs : envStep e s with
    | next t =>
      rw [hs] at hstep
      by_cases hidle : t.eng = .idle
      · rw [serve_cons_idle hs hidle, serve_cons_idle hstep hidle]
        exact ⟨g₁, hg₁, rfl⟩
      · rw [serve_cons_busy hs hidle, serve_cons_busy hstep hidle]
        obtain ⟨g₂, hg₂, hrun⟩ := ih g₁ t
        refine ⟨g₂, ?_, hrun⟩
        obtain rfl | rfl := hg₂
        · exact hg₁
        · exact .inr rfl
    | fault f =>
      rw [hs] at hstep
      exact ⟨g, .inl rfl, by rw [serve_cons_fault hs, serve_cons_fault hstep]; rfl⟩
    | refused q =>
      rw [hs] at hstep
      exact ⟨g, .inl rfl, by simp [serve, hs, hstep, mapNext]⟩

/-- A run does not read the script in the state, only the one it is given. -/
theorem serve_script (es es' : List EnvEvent) (s : State) : serve es { s with env := es' } = serve es s := by
  obtain ⟨g, hg, h⟩ := serve_aside es id (fun _ => es') s
  obtain rfl : g = id := hg.elim id id
  exact h.trans (mapNext_id _)

/-! ### A step is a run of micro steps -/

theorem microStep_cons (e : EnvEvent) (es : List EnvEvent) (s : State) :
    microStep { s with env := e :: es } = withEnv es (envStep e s) :=
  (congrArg (withEnv es) (envStep_script e (e :: es) s)).trans (withEnv_withEnv es _ _)

theorem runMicro_one (s : State) : runMicro 1 s = microStep s := by
  unfold runMicro
  cases microStep s <;> rfl

/-- Serving a script is a run of micro steps from the state that has it as its script. -/
theorem exists_runMicro_serve (es : List EnvEvent) (s : State) :
    ∃ n, runMicro (n + 1) { s with env := es } = serve es s := by
  induction es generalizing s with
  | nil => exact ⟨0, rfl⟩
  | cons e es ih =>
    have hmicro := microStep_cons e es s
    cases hs : envStep e s with
    | next t =>
      rw [hs] at hmicro
      by_cases hidle : t.eng = .idle
      · exact ⟨0, by rw [runMicro_one, hmicro, serve_cons_idle hs hidle]; rfl⟩
      · obtain ⟨n, hn⟩ := ih t
        refine ⟨n + 1, ?_⟩
        rw [runMicro, hmicro, serve_cons_busy hs hidle, ← hn]
        rfl
    | fault f => exact ⟨0, by rw [runMicro_one, hmicro, hs, serve_cons_fault hs]; rfl⟩
    | refused q => exact ⟨0, by rw [runMicro_one, hmicro, hs]; simp [serve, hs, withEnv]⟩

/-- Every step is one event, or serves the script that starts with the bytes of the request. -/
theorem step_eq_microStep_or_serve (s : State) : step s = microStep s ∨ step s = serve s.env s := by
  obtain ⟨i, rest, hidle, hfetch⟩ | hnone := fetched_or_not s
  · right
    rw [step_of_fetch hidle hfetch, exec_eq_transact, transact, serve_script]
    exact congrArg (serve · s) (script_of_fetch hfetch).symm
  · exact .inl (step_of_no_fetch hnone)

/-- Settles O4: a step that is no single event serves the script, one micro step at a time. -/
theorem stepIsARunOfMicroSteps : Obligations.StepIsARunOfMicroSteps := by
  intro s
  obtain hstep | hstep := step_eq_microStep_or_serve s
  · exact ⟨1, le_rfl, by rw [runMicro_one, hstep]⟩
  · obtain ⟨n, hn⟩ := exists_runMicro_serve s.env s
    exact ⟨n + 1, Nat.le_add_left 1 n, hn.trans hstep.symm⟩

/-! ### No result depends on `CACHE` -/

theorem microStep_of_nil (h : s.env = []) : microStep s = .next s := by simp [microStep, h]

theorem microStep_of_cons {e : EnvEvent} {es : List EnvEvent} (h : s.env = e :: es) :
    microStep s = withEnv es (envStep e s) := by simp [microStep, h]

theorem microStep_cache (g : Byte → Byte) (s : State) :
    ∃ g', microStep (s.aside g id) = mapNext (State.aside g' id) (microStep s) := by
  cases henv : s.env with
  | nil =>
    refine ⟨g, ?_⟩
    rw [microStep_of_nil henv, microStep_of_nil (s := s.aside g id) henv]
    rfl
  | cons e es =>
    obtain ⟨g', -, h⟩ := envStep_aside e g id s
    refine ⟨g', ?_⟩
    rw [microStep_of_cons henv, microStep_of_cons (s := s.aside g id) henv, h]
    cases envStep e s <;> rfl

/-- A step passes `CACHE` on, changed or not: whether a request is fetched does not depend on it. -/
theorem step_cache (g : Byte → Byte) (s : State) :
    ∃ g', step (s.aside g id) = mapNext (State.aside g' id) (step s) := by
  obtain ⟨i, rest, hidle, hfetch⟩ | hnone := fetched_or_not s
  · rw [step_of_fetch hidle hfetch, step_of_fetch (s := s.aside g id) hidle hfetch, exec_eq_transact,
      exec_eq_transact]
    obtain ⟨g', -, h⟩ := serve_aside ((encode s.cfg i).map .rx ++ rest) g id { s with env := rest }
    exact ⟨g', h⟩
  · rw [step_of_no_fetch hnone, step_of_no_fetch (s := s.aside g id) hnone]
    exact microStep_cache g s

/-- Settles O58: the step of the other state is the step of the one with its `CACHE` changed. -/
theorem noResultDependsOnTheCache : Obligations.NoResultDependsOnTheCache := by
  intro s x
  obtain ⟨g, h⟩ := step_cache (fun _ => x) s
  have hstep : step { s with cache := x } = mapNext (State.aside g id) (step s) := h
  rw [hstep]
  cases step s <;> rfl

/-! ### A run does not depend on where its script stood -/

/-- Settles O37: the two runs serve the same script from states that differ in the script alone. -/
theorem genericWriteToThePortIsThePortWrite : Obligations.GenericWriteToThePortIsThePortWrite := by
  intro s k n v m env
  have hsame : ∀ es es' script, serve script { s with env := es } = serve script { s with env := es' } :=
    fun es es' script => by rw [serve_script script es s, serve_script script es' s]
  exact ⟨hsame _ _ _, hsame _ _ _, hsame _ _ _⟩

end Sys2Proof.Machine

/-! PROOFS. The invariant at each engine position (spec/10_state.md R32 to R40). What the registers hold at a position is
said once as an equivalence; each step is then run forward from it, and the registers after the step are read off the
equivalence of the next position. So every position has one lemma that says both that the step answers a next state and
that this state meets the invariant. -/

namespace Sys2Proof.Machine

variable {s t u : State} {r : Result State}

/-! ### The registers, taken apart -/

theorem State.noOperands_iff :
    s.noOperands = true ↔
      s.chan = none ∧ s.len = none ∧ s.buf = [] ∧ s.idx = none ∧ s.echoLo = none ∧ s.xw = none := by
  simp only [State.noOperands, Bool.and_eq_true, Option.isNone_iff_eq_none, List.isEmpty_iff, and_assoc]

theorem State.tagged_iff {impl : TypeImpl} :
    s.tagged impl = true ↔ ∃ y, s.tag = some y ∧ lookup s.cfg y = some impl := by
  simp only [State.tagged, Option.any_eq_true, beq_iff_eq]

theorem State.readAddressed_iff :
    s.readAddressed = true ↔ ∃ y c, s.tag = some y ∧ s.chan = some c ∧ (lookup s.cfg y).isSome = true ∧
      (lookup s.cfg y = some .port → c.toNat ≤ s.cfg.nPort) := by
  simp [State.readAddressed, Option.any_eq_true, Decidable.imp_iff_not_or]

theorem State.writeAddressed_iff :
    s.writeAddressed = true ↔
      ∃ y c, s.tag = some y ∧ s.chan = some c ∧ lookup s.cfg y = some .port ∧ namesPort s.cfg c = true := by
  simp only [State.writeAddressed, Bool.and_eq_true, State.tagged_iff, Option.any_eq_true]
  constructor
  · rintro ⟨⟨y, hy, hl⟩, c, hc, hk⟩
    exact ⟨y, c, hy, hc, hl, hk⟩
  · rintro ⟨y, c, hy, hc, hl, hk⟩
    exact ⟨⟨y, hy, hl⟩, c, hc, hk⟩

theorem Cap.any_eq_true {α : Type} {r : Cap α} {p : α → Bool} :
    r.any p = true ↔ ∃ a, r = .ok a ∧ p a = true := by
  cases r <;> simp [Cap.any]

theorem State.readReady_iff :
    s.readReady = true ↔ ∃ y c n bytes, s.tag = some y ∧ s.chan = some c ∧ s.len = some n ∧
      readPayload s y c = .ok bytes ∧ bytes.length = n.toNat ∧ 1 ≤ n.toNat ∧ n.toNat ≤ s.cfg.maxPayload := by
  simp [State.readReady, Option.any_eq_true, Cap.any_eq_true, and_assoc]

theorem State.lenIs_iff {p : Nat → Bool} : s.lenIs p = true ↔ ∃ n, s.len = some n ∧ p n.toNat = true := by
  simp only [State.lenIs, Option.any_eq_true]

theorem State.idxIs_iff {p : Nat → Bool} : s.idxIs p = true ↔ ∃ i, s.idx = some i ∧ p i.toNat = true := by
  simp only [State.idxIs, Option.any_eq_true]

theorem toNat_le_one_iff {i : Byte} : i.toNat ≤ 1 ↔ i = 0 ∨ i = 1 := by bv_omega

/-- `IDX` while the trailer goes out (R124). -/
theorem State.sendingTrailer_iff :
    s.sendingTrailer = true ↔ (s.idx = some 0 ∨ s.idx = some 1) ∧ s.echoLo = none := by
  simp only [State.sendingTrailer, Bool.and_eq_true, State.idxIs_iff, decide_eq_true_eq, toNat_le_one_iff,
    Option.isNone_iff_eq_none, and_congr_left_iff]
  rintro -
  constructor
  · rintro ⟨i, hi, rfl | rfl⟩
    · exact .inl hi
    · exact .inr hi
  · rintro (hi | hi)
    · exact ⟨0, hi, .inl rfl⟩
    · exact ⟨1, hi, .inr rfl⟩

/-- `IDX` and the low half of `ECHO` while the echo comes in (R125). -/
theorem State.receivingEcho_iff :
    s.receivingEcho = true ↔
      s.idx = some 0 ∧ s.echoLo = none ∨ s.idx = some 1 ∧ ∃ lo, s.echoLo = some lo := by
  simp only [State.receivingEcho, State.idxIs_iff, Bool.and_eq_true, decide_eq_true_eq, toNat_le_one_iff]
  constructor
  · rintro ⟨i, hi, rfl | rfl, hecho⟩
    · exact .inl ⟨hi, by simpa using hecho⟩
    · exact .inr ⟨hi, by simpa [Option.isSome_iff_exists] using hecho⟩
  · rintro (⟨hi, hecho⟩ | ⟨hi, hecho⟩)
    · exact ⟨0, hi, .inl rfl, by simpa using hecho⟩
    · exact ⟨1, hi, .inr rfl, by simpa [Option.isSome_iff_exists] using hecho⟩

/-! ### What the registers hold at each position -/

theorem registersOk_iff_idle (h : s.eng = .idle) :
    s.registersOk = true ↔ s.echoHi = none ∧ s.crc = none ∧ s.tag = none ∧ s.noOperands = true := by
  simp [State.registersOk, h, State.noTransaction, and_assoc]

theorem registersOk_iff_tag (h : s.eng = .rdTag ∨ s.eng = .wrTag) :
    s.registersOk = true ↔ s.echoHi = none ∧ (∃ crc, s.crc = some crc) ∧ s.tag = none ∧ s.noOperands = true := by
  obtain h | h := h <;> simp [State.registersOk, h, Option.isSome_iff_exists, and_assoc]

theorem registersOk_iff_rdChan (h : s.eng = .rdChan) :
    s.registersOk = true ↔ s.echoHi = none ∧ (∃ crc, s.crc = some crc) ∧
      (∃ y, s.tag = some y ∧ (lookup s.cfg y).isSome = true) ∧ s.noOperands = true := by
  simp [State.registersOk, h, Option.any_eq_true, Option.isSome_iff_exists, and_assoc]

theorem registersOk_iff_rdLenTx (h : s.eng = .rdLenTx) :
    s.registersOk = true ↔ s.echoHi = none ∧ (∃ crc, s.crc = some crc) ∧ s.readAddressed = true ∧
      s.readReady = true ∧ s.buf = [] ∧ s.idx = none ∧ s.echoLo = none ∧ s.xw = none := by
  simp [State.registersOk, h, Option.isSome_iff_exists, and_assoc]

theorem registersOk_iff_rdDataTx (h : s.eng = .rdDataTx) :
    s.registersOk = true ↔ s.echoHi = none ∧ (∃ crc, s.crc = some crc) ∧ s.readAddressed = true ∧
      (∃ n, s.len = some n ∧ s.buf.length = n.toNat ∧ n.toNat ≤ s.cfg.maxPayload ∧
        ∃ i, s.idx = some i ∧ i.toNat < n.toNat) ∧ s.echoLo = none ∧ s.xw = none := by
  simp [State.registersOk, h, Option.isSome_iff_exists, State.lenIs_iff, State.idxIs_iff, and_assoc]

theorem registersOk_iff_rdCrcTx (h : s.eng = .rdCrcTx) :
    s.registersOk = true ↔ s.echoHi = none ∧ (∃ crc, s.crc = some crc) ∧ s.readAddressed = true ∧
      (∃ n, s.len = some n ∧ s.buf.length = n.toNat) ∧ s.sendingTrailer = true ∧ s.xw = none := by
  simp [State.registersOk, h, Option.isSome_iff_exists, State.lenIs_iff, and_assoc]

theorem registersOk_iff_rdEchoRx (h : s.eng = .rdEchoRx) :
    s.registersOk = true ↔ s.echoHi = none ∧ (∃ crc, s.crc = some crc) ∧ s.readAddressed = true ∧
      (∃ n, s.len = some n ∧ s.buf.length = n.toNat) ∧ s.receivingEcho = true ∧ s.xw = none := by
  simp [State.registersOk, h, Option.isSome_iff_exists, State.lenIs_iff, and_assoc]

theorem registersOk_iff_pwChan (h : s.eng = .pwChan) :
    s.registersOk = true ↔ s.echoHi = none ∧ (∃ crc, s.crc = some crc) ∧ s.tagged .port = true ∧
      s.noOperands = true := by
  simp [State.registersOk, h, Option.isSome_iff_exists, and_assoc]

theorem registersOk_iff_pwLen (h : s.eng = .pwLen) :
    s.registersOk = true ↔ s.echoHi = none ∧ (∃ crc, s.crc = some crc) ∧ s.writeAddressed = true ∧
      s.len = none ∧ s.buf = [] ∧ s.idx = none ∧ s.echoLo = none ∧ s.xw = none := by
  simp [State.registersOk, h, Option.isSome_iff_exists, and_assoc]

theorem registersOk_iff_pwData (h : s.eng = .pwData) :
    s.registersOk = true ↔ s.echoHi = none ∧ (∃ crc, s.crc = some crc) ∧ s.writeAddressed = true ∧
      (∃ n, s.len = some n ∧ (n.toNat = 1 ∨ n.toNat = 2) ∧
        ∃ i, s.idx = some i ∧ i.toNat < n.toNat ∧ s.buf.length = i.toNat) ∧ s.echoLo = none ∧ s.xw = none := by
  simp [State.registersOk, h, Option.isSome_iff_exists, State.lenIs_iff, State.idxIs_iff, and_assoc]

theorem registersOk_iff_pwCrcTx (h : s.eng = .pwCrcTx) :
    s.registersOk = true ↔ s.echoHi = none ∧ (∃ crc, s.crc = some crc) ∧ s.writeAddressed = true ∧
      (∃ n, s.len = some n ∧ (n.toNat = 1 ∨ n.toNat = 2) ∧ s.buf.length = n.toNat) ∧ s.sendingTrailer = true ∧
      s.xw = none := by
  simp [State.registersOk, h, Option.isSome_iff_exists, State.lenIs_iff, and_assoc]

theorem registersOk_iff_pwEchoRx (h : s.eng = .pwEchoRx) :
    s.registersOk = true ↔ s.echoHi = none ∧ (∃ crc, s.crc = some crc) ∧ s.writeAddressed = true ∧
      (∃ n, s.len = some n ∧ (n.toNat = 1 ∨ n.toNat = 2) ∧ s.buf.length = n.toNat) ∧ s.receivingEcho = true ∧
      s.xw = none := by
  simp [State.registersOk, h, Option.isSome_iff_exists, State.lenIs_iff, and_assoc]

/-- What stands beside `IDX` and `ECHO` inside `XW` (R142). -/
theorem registersOk_iff_xw (h : s.eng = .xw) :
    s.registersOk = true ↔ s.echoHi = none ∧ (∃ crc, s.crc = some crc) ∧ s.tagged .external = true ∧
      s.chan = none ∧ s.len = none ∧ s.buf = [] ∧
      ((∃ got, s.xw = some (.receive got)) ∧ s.idx = none ∧ s.echoLo = none ∨
        s.xw = some .trailer ∧ s.sendingTrailer = true ∨ s.xw = some .echo ∧ s.receivingEcho = true) := by
  rcases hxw : s.xw with _ | _ | _ | _ <;> simp [State.registersOk, h, hxw, Option.isSome_iff_exists, and_assoc]

/-! ### A step that keeps the invariant -/

/-- A register that is known to hold a value is read. -/
theorem need_of_eq {α : Type} {reg : TxnReg} {v : Option α} {a : α} (h : v = some a) (k : α → Result State) :
    need reg v k = k a := by rw [h, need_some]

/-- The result is a next state, and that state meets the invariant. -/
def Progresses (r : Result State) : Prop := ∃ t, r = .next t ∧ t.inv = true

theorem State.registersOk_of_inv (h : s.inv = true) : s.registersOk = true := by
  obtain ⟨-, -, -, hregs⟩ := State.inv_iff.mp h
  exact hregs

theorem State.portsOk_of_inv (h : s.inv = true) : s.portsOk = true := by
  obtain ⟨-, hports, -, -⟩ := State.inv_iff.mp h
  exact hports

/-- Where nothing persistent is written, only the registers are to be looked at. -/
theorem State.SamePersistent.inv (h : s.SamePersistent t) (hinv : s.inv = true) (hregs : t.registersOk = true) :
    t.inv = true := by
  obtain ⟨hcfg, hports, hcur, hmax, hcache, -, -⟩ := h
  obtain ⟨hwf, hportsOk, hpoller, -⟩ := State.inv_iff.mp hinv
  refine State.inv_iff.mpr ⟨hcfg ▸ hwf, ?_, ?_, hregs⟩
  · simpa only [State.portsOk, hports, hcfg] using hportsOk
  · simpa only [State.pollerOk, hcur, hmax, hcache, hcfg] using hpoller

theorem registersOk_raise (c : AbortCause) (s : State) : (raise c s).registersOk = true := rfl

theorem registersOk_endTransaction (s : State) : s.endTransaction.registersOk = true := rfl

/-- The step goes on to a state whose registers stand as its position asks. -/
theorem Progresses.of_registersOk (hinv : s.inv = true) (hstep : r = .next t) (hsame : s.SamePersistent t)
    (hregs : t.registersOk = true) : Progresses r :=
  ⟨t, hstep, hsame.inv hinv hregs⟩

/-- The step aborts. -/
theorem Progresses.of_raise {c : AbortCause} (hinv : s.inv = true) (hstep : r = .next (raise c u))
    (hsame : s.SamePersistent u) : Progresses r :=
  ⟨_, hstep, State.SamePersistent.inv (t := raise c u) hsame hinv (registersOk_raise c u)⟩

/-- The step commits: what it wrote beside the registers are ports. -/
theorem Progresses.of_commit {e : OutEvent} (hinv : s.inv = true) (hstep : r = .next (t.emit e).endTransaction)
    (hsame : s.SamePersistent u) (hframe : t = { u with ports := t.ports }) (hports : t.portsOk = true) :
    Progresses r := by
  have hcfg : t.cfg = u.cfg := by rw [hframe]
  obtain ⟨hwf, -, hpoller, -⟩ := State.inv_iff.mp (hsame.inv (t := u.endTransaction) hinv rfl)
  refine ⟨_, hstep, State.inv_iff.mpr ⟨?_, hports, ?_, registersOk_endTransaction _⟩⟩
  · exact hcfg ▸ hwf
  · rw [hframe]
    exact hpoller

/-! ### The commits -/

theorem readDone_portsOk {y c : Byte} (hports : s.portsOk = true) (h : readDone y c s = .ok t) : t.portsOk = true := by
  obtain ⟨-, h⟩ | ⟨-, rfl⟩ := readDone_eq_ok.mp h
  · obtain ⟨-, rfl⟩ | ⟨-, hlt, rfl⟩ := portReadDone_eq_ok.mp h
    · exact hports
    · exact portsOk_setFlags hports hlt
  · exact hports

theorem portSet_portsOk {i : Nat} {v : Bool} (hports : s.portsOk = true) (h : portSet i v s = .ok t) :
    t.portsOk = true := by
  obtain ⟨hlt, rfl⟩ := portSet_eq_ok.mp h
  split
  · exact hports
  · exact portsOk_setFlags hports hlt

theorem portMaskedWrite_portsOk {i : Nat} {v m : Byte} (hports : s.portsOk = true)
    (h : portMaskedWrite i v m s = .ok t) : t.portsOk = true := by
  obtain ⟨hlt, rfl⟩ := portMaskedWrite_eq_ok.mp h
  exact portsOk_setFlags hports hlt

theorem State.SamePersistent.portsOk (h : s.SamePersistent u) (hinv : s.inv = true) : u.portsOk = true :=
  State.portsOk_of_inv (s := u.endTransaction) (State.SamePersistent.inv (t := u.endTransaction) h hinv rfl)

/-- The channel of an accepted read names a port or is 0, so that `read_done` has what it acts on (R203). -/
theorem exists_readDone_of_addressed {y c : Byte} (h : lookup s.cfg y = some .port → c.toNat ≤ s.cfg.nPort) :
    ∃ t, readDone y c s = .ok t := by
  by_cases hl : lookup s.cfg y = some .port
  · by_cases hc : c = 0
    · exact ⟨s, readDone_eq_ok.mpr (.inl ⟨hl, portReadDone_eq_ok.mpr (.inl ⟨hc, rfl⟩)⟩)⟩
    · have hlt : portOf c < s.cfg.nPort := by
        have hle := h hl
        have hpos : c.toNat ≠ 0 := fun h0 => hc (BitVec.toNat_inj.mp h0)
        unfold portOf
        omega
      exact ⟨_, readDone_eq_ok.mpr (.inl ⟨hl, portReadDone_eq_ok.mpr (.inr ⟨hc, hlt, rfl⟩)⟩)⟩
  · exact ⟨s, readDone_eq_ok.mpr (.inr ⟨hl, rfl⟩)⟩

theorem progresses_readCommit (hinv : s.inv = true) (hsame : s.SamePersistent u) (haddr : u.readAddressed = true) :
    Progresses (readCommit u) := by
  obtain ⟨y, c, hy, hc, -, hport⟩ := State.readAddressed_iff.mp haddr
  obtain ⟨t, ht⟩ := exists_readDone_of_addressed hport
  have hstep : readCommit u = .next (t.emit (.readDone y c)).endTransaction :=
    need_eq_next.mpr ⟨y, hy, need_eq_next.mpr ⟨c, hc, orFault_eq_next.mpr ⟨t, ht, rfl⟩⟩⟩
  exact .of_commit hinv hstep hsame (readDone_frame ht).1 (readDone_portsOk (hsame.portsOk hinv) ht)

theorem progresses_portCommit {n : Byte} (hinv : s.inv = true) (hsame : s.SamePersistent u)
    (haddr : u.writeAddressed = true) (hlen : u.len = some n) (hn : n.toNat = 1 ∨ n.toNat = 2)
    (hbuf : u.buf.length = n.toNat) : Progresses (portCommit u) := by
  obtain ⟨y, c, hy, hc, -, hk⟩ := State.writeAddressed_iff.mp haddr
  have hlt := (namesPort_iff.mp hk).2
  have hports := hsame.portsOk hinv
  obtain hn | hn := hn
  · obtain rfl : n = 1 := BitVec.eq_of_toNat_eq hn
    obtain ⟨v, hv⟩ := List.length_eq_one_iff.mp (hbuf.trans hn)
    have hset := portSet_eq_ok.mpr ⟨hlt, (rfl : _ = ite (lvl (u.flags (portOf c)) = logicalValue v) _ _)⟩
    exact .of_commit hinv (portCommit_set hy hc hlen hv hset) hsame (portSet_frame hset) (portSet_portsOk hports hset)
  · obtain rfl : n = 2 := BitVec.eq_of_toNat_eq hn
    obtain ⟨v, m, hvm⟩ := List.length_eq_two.mp (hbuf.trans hn)
    have hwrite := portMaskedWrite_eq_ok.mpr ⟨hlt, (rfl : _ = u.setFlags _ (maskedFlags v m (u.flags (portOf c))))⟩
    exact .of_commit hinv (portCommit_maskedWrite hy hc hlen hvm hwrite) hsame (portMaskedWrite_frame hwrite)
      (portMaskedWrite_portsOk hports hwrite)

theorem progresses_xwCommit (hinv : s.inv = true) (hsame : s.SamePersistent u) (htag : u.tagged .external = true) :
    Progresses (xwCommit u) := by
  obtain ⟨y, hy, -⟩ := State.tagged_iff.mp htag
  exact .of_commit hinv (need_eq_next.mpr ⟨y, hy, rfl⟩) hsame rfl (hsame.portsOk hinv)

/-! ### The CRC exchange -/

theorem progresses_trailerStep {after : State → State} {crc : Word} (hcrc : s.crc = some crc)
    (hsend : s.sendingTrailer = true) (hlow : ∀ e, ({ s.emit e with idx := some 1 } : State).inv = true)
    (hhigh : ∀ e, (after { s.emit e with idx := some 0 }).inv = true) : Progresses (trailerStep after s) := by
  obtain ⟨hidx | hidx, -⟩ := State.sendingTrailer_iff.mp hsend
  · exact ⟨_, trailerStep_low hcrc hidx, hlow _⟩
  · exact ⟨_, trailerStep_high hcrc hidx, hhigh _⟩

theorem progresses_echoStep {commit : State → Result State} {b : Byte} {crc : Word} (hinv : s.inv = true)
    (hcrc : s.crc = some crc) (hecho : s.receivingEcho = true)
    (hlow : ({ s with echoLo := some b, idx := some 1 } : State).inv = true)
    (hcommit : Progresses (commit { s with echoHi := some b })) : Progresses (echoStep commit b s) := by
  obtain ⟨hidx, -⟩ | ⟨hidx, lo, hlo⟩ := State.receivingEcho_iff.mp hecho
  · exact ⟨_, echoStep_low hidx, hlow⟩
  · by_cases hmatch : echoWord b lo = trailer crc
    · rwa [echoStep_correct hidx hlo hcrc hmatch]
    · exact .of_raise hinv (echoStep_wrong hidx hlo hcrc hmatch) (.refl s)

/-! ### The positions of a read -/

theorem progresses_idle (hinv : s.inv = true) (heng : s.eng = .idle) (b : Byte) : Progresses (envStep (.rx b) s) := by
  obtain ⟨hhi, -, htag, hno⟩ := (registersOk_iff_idle heng).mp (State.registersOk_of_inv hinv)
  by_cases hread : b = 0xF2
  · subst hread
    exact .of_registersOk hinv (envStep_readCode heng) (.refl s)
      ((registersOk_iff_tag (.inl rfl)).mpr ⟨hhi, ⟨_, rfl⟩, htag, hno⟩)
  · by_cases hwrite : b = 0xF4
    · subst hwrite
      exact .of_registersOk hinv (envStep_writeCode heng) (.refl s)
        ((registersOk_iff_tag (.inr rfl)).mpr ⟨hhi, ⟨_, rfl⟩, htag, hno⟩)
    · exact .of_raise hinv (envStep_unknownCode heng hread hwrite) (.refl s)

theorem progresses_rdTag (hinv : s.inv = true) (heng : s.eng = .rdTag) (y : Byte) :
    Progresses (envStep (.rx y) s) := by
  obtain ⟨hhi, ⟨crc, hcrc⟩, -, hno⟩ := (registersOk_iff_tag (.inl heng)).mp (State.registersOk_of_inv hinv)
  cases hy : lookup s.cfg y with
  | none => exact .of_raise hinv (envStep_rdTag_unknown heng hcrc hy) (.refl s)
  | some impl =>
    have hsome : (lookup s.cfg y).isSome = true := by rw [hy]; rfl
    exact .of_registersOk hinv (envStep_rdTag heng hcrc hsome) (.refl s)
      ((registersOk_iff_rdChan rfl).mpr ⟨hhi, ⟨_, rfl⟩, ⟨y, rfl, hsome⟩, hno⟩)

/-- A channel whose length the port answers is 0 or names a port (R200). -/
theorem le_nPort_of_readLength {y c : Byte} {n : Nat} (h : readLength s y c = .ok n)
    (hport : lookup s.cfg y = some .port) : c.toNat ≤ s.cfg.nPort := by
  simp only [readLength, hport, portReadLength] at h
  split_ifs at h with hc hk
  · rw [hc]
    exact Nat.zero_le _
  · simp only [namesPort, Bool.and_eq_true, decide_eq_true_eq] at hk
    exact hk.2

theorem checkLength_eq_none {cfg : Config} {n : Nat} : checkLength cfg n = none ↔ n ≠ 0 ∧ n ≤ cfg.maxPayload := by
  unfold checkLength
  split_ifs <;> simp <;> omega

theorem progresses_rdChan (hinv : s.inv = true) (heng : s.eng = .rdChan) (c : Byte) :
    Progresses (envStep (.rx c) s) := by
  obtain ⟨hhi, ⟨crc, hcrc⟩, ⟨y, htag, hy⟩, hno⟩ :=
    (registersOk_iff_rdChan heng).mp (State.registersOk_of_inv hinv)
  cases hn : readLength s y c with
  | abort cause => exact .of_raise hinv (envStep_rdChan_abort heng hcrc htag hn) (.refl s)
  | fault f => exact absurd hn (readLength_ne_fault s y c f)
  | ok n =>
    cases hcheck : checkLength s.cfg n with
    | some cause => exact .of_raise hinv (envStep_rdChan_rejected heng hcrc htag hn hcheck) (.refl s)
    | none =>
      obtain ⟨-, -, hbuf, hidx, hlo, hxw⟩ := State.noOperands_iff.mp hno
      obtain ⟨hpos, hmax⟩ := checkLength_eq_none.mp hcheck
      have h255 := (maxPayload_bounds (State.inv_iff.mp hinv).1).2
      obtain ⟨bytes, hbytes, hlength⟩ := exists_readPayload hn hpos
      have htoNat : (BitVec.ofNat 8 n).toNat = n := by
        rw [BitVec.toNat_ofNat]
        omega
      refine .of_registersOk hinv (envStep_rdChan heng hcrc htag hn hcheck) (.refl s)
        ((registersOk_iff_rdLenTx rfl).mpr ⟨hhi, ⟨_, rfl⟩, ?addressed, ?ready, hbuf, hidx, hlo, hxw⟩)
      case addressed =>
        exact State.readAddressed_iff.mpr ⟨y, c, htag, rfl, hy, le_nPort_of_readLength hn⟩
      case ready =>
        refine State.readReady_iff.mpr ⟨y, c, _, bytes, htag, rfl, rfl, ?_, ?_, ?_, ?_⟩
        · exact (readPayload_congr rfl rfl rfl y c).trans hbytes
        · rw [htoNat, hlength]
        · omega
        · rwa [htoNat]

theorem progresses_rdLenTx (hinv : s.inv = true) (heng : s.eng = .rdLenTx) : Progresses (envStep .txDone s) := by
  obtain ⟨hhi, ⟨crc, hcrc⟩, haddr, hready, -, -, hlo, hxw⟩ :=
    (registersOk_iff_rdLenTx heng).mp (State.registersOk_of_inv hinv)
  obtain ⟨y, c, n, bytes, htag, hchan, hlen, hbytes, hlength, hpos, hmax⟩ := State.readReady_iff.mp hready
  refine .of_registersOk hinv (envStep_rdLenTx heng hcrc htag hchan hlen hbytes (hlength ▸ hmax)) (.refl s)
    ((registersOk_iff_rdDataTx rfl).mpr ⟨hhi, ⟨_, rfl⟩, haddr, ⟨n, hlen, hlength, hmax, 0, rfl, ?_⟩, hlo, hxw⟩)
  exact hpos

theorem progresses_rdDataTx (hinv : s.inv = true) (heng : s.eng = .rdDataTx) : Progresses (envStep .txDone s) := by
  obtain ⟨hhi, ⟨crc, hcrc⟩, haddr, ⟨n, hlen, hlength, hmax, i, hidx, hlt⟩, hlo, hxw⟩ :=
    (registersOk_iff_rdDataTx heng).mp (State.registersOk_of_inv hinv)
  have hb : s.buf[i.toNat]? = some s.buf[i.toNat] := List.getElem?_eq_getElem (by omega)
  have hstep := envStep_rdDataTx heng hcrc hidx hlen hlt hb
  split_ifs at hstep with hlast
  · exact .of_registersOk hinv hstep (.refl s) ((registersOk_iff_rdCrcTx rfl).mpr
      ⟨hhi, ⟨_, rfl⟩, haddr, ⟨n, hlen, hlength⟩, State.sendingTrailer_iff.mpr ⟨.inl rfl, hlo⟩, hxw⟩)
  · have hlt' : (i + 1).toNat < n.toNat := by bv_omega
    exact .of_registersOk hinv hstep (.refl s) (Iff.mpr (registersOk_iff_rdDataTx heng)
      ⟨hhi, ⟨_, rfl⟩, haddr, ⟨n, hlen, hlength, hmax, i + 1, rfl, hlt'⟩, hlo, hxw⟩)

theorem progresses_rdCrcTx (hinv : s.inv = true) (heng : s.eng = .rdCrcTx) : Progresses (envStep .txDone s) := by
  obtain ⟨hhi, ⟨crc, hcrc⟩, haddr, hlen, hsend, hxw⟩ :=
    (registersOk_iff_rdCrcTx heng).mp (State.registersOk_of_inv hinv)
  have hlo := (State.sendingTrailer_iff.mp hsend).2
  have hstep : envStep .txDone s = trailerStep (fun s => { s with eng := .rdEchoRx }) s := exchangeAt_read.sends heng
  rw [hstep]
  refine progresses_trailerStep hcrc hsend (fun e => ?low) fun e => ?high
  case low =>
    exact State.SamePersistent.inv (.refl s) hinv (Iff.mpr (registersOk_iff_rdCrcTx heng)
      ⟨hhi, ⟨crc, hcrc⟩, haddr, hlen, State.sendingTrailer_iff.mpr ⟨.inr rfl, hlo⟩, hxw⟩)
  case high =>
    exact State.SamePersistent.inv (.refl s) hinv ((registersOk_iff_rdEchoRx rfl).mpr
      ⟨hhi, ⟨crc, hcrc⟩, haddr, hlen, State.receivingEcho_iff.mpr (.inl ⟨rfl, hlo⟩), hxw⟩)

theorem progresses_rdEchoRx (hinv : s.inv = true) (heng : s.eng = .rdEchoRx) (b : Byte) :
    Progresses (envStep (.rx b) s) := by
  obtain ⟨hhi, ⟨crc, hcrc⟩, haddr, hlen, hecho, hxw⟩ :=
    (registersOk_iff_rdEchoRx heng).mp (State.registersOk_of_inv hinv)
  have hstep : envStep (.rx b) s = echoStep readCommit b s := exchangeAt_read.receives b heng
  rw [hstep]
  refine progresses_echoStep hinv hcrc hecho ?low (progresses_readCommit hinv (.refl s) haddr)
  exact State.SamePersistent.inv (.refl s) hinv (Iff.mpr (registersOk_iff_rdEchoRx heng)
    ⟨hhi, ⟨crc, hcrc⟩, haddr, hlen, State.receivingEcho_iff.mpr (.inr ⟨rfl, b, rfl⟩), hxw⟩)

/-! ### The positions of a port write -/

theorem envStep_wrTag_unknown {y : Byte} {crc : Word} (heng : s.eng = .wrTag) (hcrc : s.crc = some crc)
    (hy : lookup s.cfg y = none) :
    envStep (.rx y) s = .next (raise .unknownType (s.emit (.diag (.unknownType y)))) :=
  (receiveStep_wrTag heng y).trans (foldByte_eq_next.mpr ⟨crc, hcrc, by simp only [hy]; rfl⟩)

theorem envStep_wrTag_dummy {y : Byte} {crc : Word} (heng : s.eng = .wrTag) (hcrc : s.crc = some crc)
    (hy : lookup s.cfg y = some .dummy) : envStep (.rx y) s = .next (raise .noCapability s) :=
  (receiveStep_wrTag heng y).trans (foldByte_eq_next.mpr ⟨crc, hcrc, by simp only [hy]; rfl⟩)

theorem envStep_wrTag_external {y : Byte} {crc : Word} (heng : s.eng = .wrTag) (hcrc : s.crc = some crc)
    (hy : lookup s.cfg y = some .external) :
    envStep (.rx y) s = xwNext y [] { s.folded y crc with tag := some y } :=
  (receiveStep_wrTag heng y).trans <| (need_of_eq hcrc _).trans (by simp only [hy])

theorem envStep_pwChan_bad {k : Byte} {crc : Word} (heng : s.eng = .pwChan) (hcrc : s.crc = some crc)
    (hk : ¬ namesPort s.cfg k = true) : envStep (.rx k) s = .next (raise .badChannel s) :=
  (receiveStep_pwChan heng k).trans (foldByte_eq_next.mpr ⟨crc, hcrc, if_neg hk⟩)

/-- The next operation of an EXTERNAL write, whichever it is; one of them is to receive on (R142). -/
theorem progresses_xwNext {y : Byte} {got : List Byte} (hinv : s.inv = true) (hsame : s.SamePersistent u)
    (hregs : ({ u with eng := .xw, xw := some (.receive got) } : State).registersOk = true) :
    Progresses (xwNext y got u) := by
  rw [xwNext_eq]
  cases extOp (extBody u y) got with
  | receive => exact .of_registersOk hinv rfl hsame hregs
  | exchange =>
    obtain ⟨hhi, hcrc, htag, hchan, hlen, hbuf, ⟨-, -, hlo⟩ | ⟨hxw, -⟩ | ⟨hxw, -⟩⟩ :=
      (registersOk_iff_xw rfl).mp hregs
    · exact .of_registersOk hinv rfl hsame ((registersOk_iff_xw rfl).mpr
        ⟨hhi, hcrc, htag, hchan, hlen, hbuf, .inr (.inl ⟨rfl, State.sendingTrailer_iff.mpr ⟨.inl rfl, hlo⟩⟩)⟩)
    · cases hxw
    · cases hxw
  | abort cause => exact .of_raise hinv rfl hsame

theorem progresses_wrTag (hinv : s.inv = true) (heng : s.eng = .wrTag) (y : Byte) :
    Progresses (envStep (.rx y) s) := by
  obtain ⟨hhi, ⟨crc, hcrc⟩, -, hno⟩ := (registersOk_iff_tag (.inr heng)).mp (State.registersOk_of_inv hinv)
  rcases hy : lookup s.cfg y with _ | _ | _ | _
  case none => exact .of_raise hinv (envStep_wrTag_unknown heng hcrc hy) (.refl s)
  case some.port =>
    exact .of_registersOk hinv (envStep_wrTag_port heng hcrc hy) (.refl s)
      ((registersOk_iff_pwChan rfl).mpr ⟨hhi, ⟨_, rfl⟩, State.tagged_iff.mpr ⟨y, rfl, hy⟩, hno⟩)
  case some.dummy => exact .of_raise hinv (envStep_wrTag_dummy heng hcrc hy) (.refl s)
  case some.external =>
    obtain ⟨hchan, hlen, hbuf, hidx, hlo, -⟩ := State.noOperands_iff.mp hno
    rw [envStep_wrTag_external heng hcrc hy]
    exact progresses_xwNext hinv (.refl s) ((registersOk_iff_xw rfl).mpr
      ⟨hhi, ⟨_, rfl⟩, State.tagged_iff.mpr ⟨y, rfl, hy⟩, hchan, hlen, hbuf, .inl ⟨⟨[], rfl⟩, hidx, hlo⟩⟩)

theorem progresses_pwChan (hinv : s.inv = true) (heng : s.eng = .pwChan) (k : Byte) :
    Progresses (envStep (.rx k) s) := by
  obtain ⟨hhi, ⟨crc, hcrc⟩, htag, hno⟩ := (registersOk_iff_pwChan heng).mp (State.registersOk_of_inv hinv)
  by_cases hk : namesPort s.cfg k = true
  · obtain ⟨y, hy, hport⟩ := State.tagged_iff.mp htag
    obtain ⟨-, hlen, hbuf, hidx, hlo, hxw⟩ := State.noOperands_iff.mp hno
    exact .of_registersOk hinv (envStep_pwChan heng hcrc hk) (.refl s) ((registersOk_iff_pwLen rfl).mpr
      ⟨hhi, ⟨_, rfl⟩, State.writeAddressed_iff.mpr ⟨y, k, hy, rfl, hport, hk⟩, hlen, hbuf, hidx, hlo, hxw⟩)
  · exact .of_raise hinv (envStep_pwChan_bad heng hcrc hk) (.refl s)

theorem progresses_pwLen (hinv : s.inv = true) (heng : s.eng = .pwLen) (n : Byte) :
    Progresses (envStep (.rx n) s) := by
  obtain ⟨hhi, ⟨crc, hcrc⟩, haddr, -, hbuf, -, hlo, hxw⟩ :=
    (registersOk_iff_pwLen heng).mp (State.registersOk_of_inv hinv)
  by_cases hn : portWriteLenOk n = true
  · have hn' : n.toNat = 1 ∨ n.toNat = 2 := by
      obtain rfl | rfl : n = 1 ∨ n = 2 := by simpa [portWriteLenOk] using hn
      · exact .inl rfl
      · exact .inr rfl
    refine .of_registersOk hinv (envStep_pwLen_ok heng hcrc hn) (.refl s) ((registersOk_iff_pwData rfl).mpr
      ⟨hhi, ⟨_, rfl⟩, haddr, ⟨n, rfl, hn', 0, rfl, ?_, ?_⟩, hlo, hxw⟩)
    · change 0 < n.toNat
      omega
    · exact congrArg List.length hbuf
  · exact .of_raise hinv (envStep_pwLen_bad heng hcrc hn) (.refl s)

theorem progresses_pwData (hinv : s.inv = true) (heng : s.eng = .pwData) (d : Byte) :
    Progresses (envStep (.rx d) s) := by
  obtain ⟨hhi, ⟨crc, hcrc⟩, haddr, ⟨n, hlen, hn, i, hidx, hlt, hbuf⟩, hlo, hxw⟩ :=
    (registersOk_iff_pwData heng).mp (State.registersOk_of_inv hinv)
  have hmax := (maxPayload_bounds (State.inv_iff.mp hinv).1).1
  have hstep := envStep_pwData (d := d) heng hcrc hidx hlen hbuf.symm (by omega)
  have hlength : (s.buf ++ [d]).length = i.toNat + 1 := by simp [hbuf]
  split_ifs at hstep with hlast
  · have hbuf' : (s.buf ++ [d]).length = n.toNat := by bv_omega
    exact .of_registersOk hinv hstep (.refl s) ((registersOk_iff_pwCrcTx rfl).mpr
      ⟨hhi, ⟨_, rfl⟩, haddr, ⟨n, hlen, hn, hbuf'⟩, State.sendingTrailer_iff.mpr ⟨.inl rfl, hlo⟩, hxw⟩)
  · have hlt' : (i + 1).toNat < n.toNat := by bv_omega
    have hbuf' : (s.buf ++ [d]).length = (i + 1).toNat := by bv_omega
    exact .of_registersOk hinv hstep (.refl s) (Iff.mpr (registersOk_iff_pwData heng)
      ⟨hhi, ⟨_, rfl⟩, haddr, ⟨n, hlen, hn, i + 1, rfl, hlt', hbuf'⟩, hlo, hxw⟩)

theorem progresses_pwCrcTx (hinv : s.inv = true) (heng : s.eng = .pwCrcTx) : Progresses (envStep .txDone s) := by
  obtain ⟨hhi, ⟨crc, hcrc⟩, haddr, hlen, hsend, hxw⟩ :=
    (registersOk_iff_pwCrcTx heng).mp (State.registersOk_of_inv hinv)
  have hlo := (State.sendingTrailer_iff.mp hsend).2
  have hstep : envStep .txDone s = trailerStep (fun s => { s with eng := .pwEchoRx }) s :=
    exchangeAt_portWrite.sends heng
  rw [hstep]
  refine progresses_trailerStep hcrc hsend (fun e => ?low) fun e => ?high
  case low =>
    exact State.SamePersistent.inv (.refl s) hinv (Iff.mpr (registersOk_iff_pwCrcTx heng)
      ⟨hhi, ⟨crc, hcrc⟩, haddr, hlen, State.sendingTrailer_iff.mpr ⟨.inr rfl, hlo⟩, hxw⟩)
  case high =>
    exact State.SamePersistent.inv (.refl s) hinv ((registersOk_iff_pwEchoRx rfl).mpr
      ⟨hhi, ⟨crc, hcrc⟩, haddr, hlen, State.receivingEcho_iff.mpr (.inl ⟨rfl, hlo⟩), hxw⟩)

theorem progresses_pwEchoRx (hinv : s.inv = true) (heng : s.eng = .pwEchoRx) (b : Byte) :
    Progresses (envStep (.rx b) s) := by
  obtain ⟨hhi, ⟨crc, hcrc⟩, haddr, ⟨n, hlen, hn, hbuf⟩, hecho, hxw⟩ :=
    (registersOk_iff_pwEchoRx heng).mp (State.registersOk_of_inv hinv)
  have hstep : envStep (.rx b) s = echoStep portCommit b s := exchangeAt_portWrite.receives b heng
  rw [hstep]
  refine progresses_echoStep hinv hcrc hecho ?low (progresses_portCommit hinv (.refl s) haddr hlen hn hbuf)
  exact State.SamePersistent.inv (.refl s) hinv (Iff.mpr (registersOk_iff_pwEchoRx heng)
    ⟨hhi, ⟨crc, hcrc⟩, haddr, ⟨n, hlen, hn, hbuf⟩, State.receivingEcho_iff.mpr (.inr ⟨rfl, b, rfl⟩), hxw⟩)

/-! ### The positions of an EXTERNAL write -/

theorem receiveStep_xw (h : s.eng = .xw) (b : Byte) : receiveStep b s = xwReceiveStep b s := by simp [receiveStep, h]

theorem envStep_xw_receive {got : List Byte} {y b : Byte} {crc : Word} (heng : s.eng = .xw)
    (hxw : s.xw = some (.receive got)) (hcrc : s.crc = some crc) (htag : s.tag = some y) :
    envStep (.rx b) s = xwNext y (got ++ [b]) (s.folded b crc) :=
  (receiveStep_xw heng b).trans <| (need_of_eq hxw _).trans <| (need_of_eq hcrc _).trans (need_of_eq htag _)

theorem envStep_xw_trailer (heng : s.eng = .xw) (hxw : s.xw = some .trailer) :
    envStep .txDone s = trailerStep (fun s => { s with xw := some .echo }) s := by
  simp [envStep, transmitStep, heng, xwTransmitStep, hxw]

theorem envStep_xw_echo {b : Byte} (heng : s.eng = .xw) (hxw : s.xw = some .echo) :
    envStep (.rx b) s = echoStep xwCommit b s :=
  (receiveStep_xw heng b).trans (need_of_eq hxw _)

theorem progresses_xw_rx (hinv : s.inv = true) (heng : s.eng = .xw) (hno : s.xw ≠ some .trailer) (b : Byte) :
    Progresses (envStep (.rx b) s) := by
  obtain ⟨hhi, ⟨crc, hcrc⟩, htag, hchan, hlen, hbuf, ⟨⟨got, hxw⟩, hidx, hlo⟩ | ⟨hxw, -⟩ | ⟨hxw, hecho⟩⟩ :=
    (registersOk_iff_xw heng).mp (State.registersOk_of_inv hinv)
  · obtain ⟨y, hy, -⟩ := State.tagged_iff.mp htag
    rw [envStep_xw_receive heng hxw hcrc hy]
    exact progresses_xwNext hinv (.refl s) ((registersOk_iff_xw rfl).mpr
      ⟨hhi, ⟨_, rfl⟩, htag, hchan, hlen, hbuf, .inl ⟨⟨got ++ [b], rfl⟩, hidx, hlo⟩⟩)
  · exact absurd hxw hno
  · rw [envStep_xw_echo heng hxw]
    refine progresses_echoStep hinv hcrc hecho ?low (progresses_xwCommit hinv (.refl s) htag)
    exact State.SamePersistent.inv (.refl s) hinv (Iff.mpr (registersOk_iff_xw heng)
      ⟨hhi, ⟨crc, hcrc⟩, htag, hchan, hlen, hbuf,
        .inr (.inr ⟨hxw, State.receivingEcho_iff.mpr (.inr ⟨rfl, b, rfl⟩)⟩)⟩)

theorem progresses_xw_txDone (hinv : s.inv = true) (heng : s.eng = .xw) (hxw : s.xw = some .trailer) :
    Progresses (envStep .txDone s) := by
  obtain ⟨hhi, ⟨crc, hcrc⟩, htag, hchan, hlen, hbuf, ⟨⟨got, hno⟩, -⟩ | ⟨-, hsend⟩ | ⟨hno, -⟩⟩ :=
    (registersOk_iff_xw heng).mp (State.registersOk_of_inv hinv)
  · cases hxw.symm.trans hno
  · have hlo := (State.sendingTrailer_iff.mp hsend).2
    rw [envStep_xw_trailer heng hxw]
    refine progresses_trailerStep hcrc hsend (fun e => ?low) fun e => ?high
    case low =>
      exact State.SamePersistent.inv (.refl s) hinv (Iff.mpr (registersOk_iff_xw heng)
        ⟨hhi, ⟨crc, hcrc⟩, htag, hchan, hlen, hbuf,
          .inr (.inl ⟨hxw, State.sendingTrailer_iff.mpr ⟨.inr rfl, hlo⟩⟩)⟩)
    case high =>
      exact State.SamePersistent.inv (.refl s) hinv (Iff.mpr (registersOk_iff_xw heng)
        ⟨hhi, ⟨crc, hcrc⟩, htag, hchan, hlen, hbuf,
          .inr (.inr ⟨rfl, State.receivingEcho_iff.mpr (.inl ⟨rfl, hlo⟩)⟩)⟩)
  · cases hxw.symm.trans hno

end Sys2Proof.Machine

/-! PROOFS. Every event and every run from a state that meets the invariant (spec/10_state.md R32, R40, R60;
spec/45_mainloop.md R230). The positions are put together into the four kinds of event; a run is an induction over its
script. The only stop is an event that the block does not admit at its position (log entry 6). -/

namespace Sys2Proof.Machine

variable {s t u : State} {r : Result State}

/-! ### The admitted events -/

/-- Only an EXTERNAL write has a phase (R142). -/
theorem eng_eq_xw_of_inv {p : XwPhase} (hinv : s.inv = true) (hxw : s.xw = some p) : s.eng = .xw := by
  have hregs := State.registersOk_of_inv hinv
  by_contra hne
  cases heng : s.eng <;>
    simp_all [State.registersOk, State.noTransaction, State.noOperands]

/-- The block is transmitting a byte (R32, R60); at every other position but `IDLE` it is receiving one. -/
def State.Transmits (s : State) : Prop :=
  s.eng ∈ [Eng.rdLenTx, .rdDataTx, .rdCrcTx, .pwCrcTx] ∨ s.xw = some .trailer

/-- A byte at a position that receives (R60). -/
theorem progresses_rx (hinv : s.inv = true) (h : ¬ s.Transmits) (b : Byte) : Progresses (envStep (.rx b) s) := by
  obtain ⟨hpos, hxw⟩ := not_or.mp h
  cases heng : s.eng
  case idle => exact progresses_idle hinv heng b
  case rdTag => exact progresses_rdTag hinv heng b
  case rdChan => exact progresses_rdChan hinv heng b
  case rdEchoRx => exact progresses_rdEchoRx hinv heng b
  case wrTag => exact progresses_wrTag hinv heng b
  case pwChan => exact progresses_pwChan hinv heng b
  case pwLen => exact progresses_pwLen hinv heng b
  case pwData => exact progresses_pwData hinv heng b
  case pwEchoRx => exact progresses_pwEchoRx hinv heng b
  case xw => exact progresses_xw_rx hinv heng hxw b
  all_goals simp [heng] at hpos

/-- An acceptance at a position that transmits (R60). -/
theorem progresses_txDone (hinv : s.inv = true) (h : s.Transmits) : Progresses (envStep .txDone s) := by
  obtain hpos | hxw := h
  · simp only [List.mem_cons, List.not_mem_nil, or_false] at hpos
    obtain heng | heng | heng | heng := hpos
    · exact progresses_rdLenTx hinv heng
    · exact progresses_rdDataTx hinv heng
    · exact progresses_rdCrcTx hinv heng
    · exact progresses_pwCrcTx hinv heng
  · exact progresses_xw_txDone hinv (eng_eq_xw_of_inv hinv hxw) hxw

/-- An abort, anywhere (R252, R258). -/
theorem progresses_abort (hinv : s.inv = true) : Progresses (envStep .abort s) := by
  by_cases hidle : s.eng = .idle
  · exact ⟨s, envStep_abort_idle hidle, hinv⟩
  · exact .of_raise hinv (envStep_abort_busy hidle) (.refl s)

/-- An iteration at `IDLE` (R230). -/
theorem progresses_iter (hinv : s.inv = true) (hidle : s.eng = .idle) (v : Bool) :
    Progresses (envStep (.iter v) s) := by
  obtain ⟨t, ht⟩ := exists_mainloopIteration v hinv
  exact ⟨t, atIdle_eq_next.mpr ⟨hidle, ht⟩, ((iterationEffect_of_next hinv ht).atRest ⟨hinv, hidle⟩).1⟩

/-- The invariant does not read the EXTERNAL bodies between transactions (R61). -/
theorem inv_setExtBody (hinv : s.inv = true) (hidle : s.eng = .idle) (y : Byte) (body : ExtBody) :
    (setExtBody y body s).inv = true := by
  obtain ⟨hwf, hports, hpoller, hregs⟩ := State.inv_iff.mp hinv
  exact State.inv_iff.mpr ⟨hwf, hports, hpoller,
    Iff.mpr (registersOk_iff_idle hidle) ((registersOk_iff_idle hidle).mp hregs)⟩

/-- Settles O8: each kind of event at the positions that admit it. -/
theorem admittedAnswersNeverStop : Obligations.AdmittedAnswersNeverStop := by
  intro s e hinv hadmitted
  have hprogress : Progresses (envStep e s) := by
    cases e with
    | rx b => exact progresses_rx hinv (not_or.mpr hadmitted) b
    | txDone => exact progresses_txDone hinv hadmitted
    | abort => exact progresses_abort hinv
    | iter v => exact progresses_iter hinv hadmitted v
    | ext y body => exact hadmitted.elim
  obtain ⟨t, ht, -⟩ := hprogress
  exact ⟨t, ht⟩

/-- Settles O55: at `IDLE` an iteration is admitted, and elsewhere it is no event of the block. -/
theorem iterationIsEnabledExactlyAtIdle : Obligations.IterationIsEnabledExactlyAtIdle := by
  intro s v hinv
  constructor
  · rintro ⟨t, ht⟩
    exact (atIdle_eq_next.mp ht).1
  · intro hidle
    obtain ⟨t, ht, -⟩ := progresses_iter hinv hidle v
    exact ⟨t, ht⟩

/-! ### Every event and every run -/

/-- The result is a next state that meets the invariant, or the script is no run of the environment (log entry 6). -/
def ProgressesOrMismatch (r : Result State) : Prop := Progresses r ∨ r = .fault .answerMismatch

theorem receiveStep_mismatch (hinv : s.inv = true) (h : s.Transmits) (b : Byte) :
    receiveStep b s = .fault .answerMismatch := by
  obtain hpos | hxw := h
  · simp only [List.mem_cons, List.not_mem_nil, or_false] at hpos
    obtain heng | heng | heng | heng := hpos <;> simp [receiveStep, heng]
  · exact (receiveStep_xw (eng_eq_xw_of_inv hinv hxw) b).trans (need_of_eq hxw _)

theorem transmitStep_mismatch (hinv : s.inv = true) (h : ¬ s.Transmits) :
    transmitStep s = .fault .answerMismatch := by
  obtain ⟨hpos, hno⟩ := not_or.mp h
  by_cases heng : s.eng = .xw
  · have hstep : transmitStep s = xwTransmitStep s := by simp [transmitStep, heng]
    obtain ⟨-, -, -, -, -, -, ⟨⟨got, hxw⟩, -⟩ | ⟨hxw, -⟩ | ⟨hxw, -⟩⟩ :=
      (registersOk_iff_xw heng).mp (State.registersOk_of_inv hinv)
    · exact hstep.trans (need_of_eq hxw _)
    · exact absurd hxw hno
    · exact hstep.trans (need_of_eq hxw _)
  · cases hcase : s.eng <;> simp_all [transmitStep]

/-- Every event is admitted, and goes on within the invariant, or it is not, and that stops the machine. -/
theorem envStep_progressesOrMismatch (hinv : s.inv = true) (e : EnvEvent) : ProgressesOrMismatch (envStep e s) := by
  cases e with
  | rx b =>
    by_cases h : s.Transmits
    · exact .inr (receiveStep_mismatch hinv h b)
    · exact .inl (progresses_rx hinv h b)
  | txDone =>
    by_cases h : s.Transmits
    · exact .inl (progresses_txDone hinv h)
    · exact .inr (transmitStep_mismatch hinv h)
  | abort => exact .inl (progresses_abort hinv)
  | iter v =>
    by_cases hidle : s.eng = .idle
    · exact .inl (progresses_iter hinv hidle v)
    · exact .inr (atIdle_busy hidle _)
  | ext y body =>
    by_cases hidle : s.eng = .idle
    · by_cases hy : lookup s.cfg y = some .external
      · have hstep : envStep (.ext y body) s = .next (setExtBody y body s) :=
          atIdle_eq_next.mpr ⟨hidle, extStep_eq_next.mpr ⟨hy, rfl⟩⟩
        exact .inl ⟨_, hstep, inv_setExtBody hinv hidle y body⟩
      · exact .inr ((if_pos hidle).trans (if_neg hy))
    · exact .inr (atIdle_busy hidle _)

theorem serve_progressesOrMismatch (hinv : s.inv = true) (es : List EnvEvent) :
    ProgressesOrMismatch (serve es s) := by
  induction es generalizing s with
  | nil => exact .inl ⟨_, serve_nil s, hinv⟩
  | cons e es ih =>
    obtain ⟨t, ht, htinv⟩ | hfault := envStep_progressesOrMismatch hinv e
    · by_cases hidle : t.eng = .idle
      · exact .inl ⟨_, serve_cons_idle ht hidle, htinv⟩
      · rw [serve_cons_busy ht hidle]
        exact ih htinv
    · exact .inr (serve_cons_fault hfault)

theorem microStep_progressesOrMismatch (hinv : s.inv = true) : ProgressesOrMismatch (microStep s) := by
  cases henv : s.env with
  | nil => exact .inl ⟨s, microStep_of_nil henv, hinv⟩
  | cons e es =>
    rw [microStep_of_cons henv]
    obtain ⟨t, ht, htinv⟩ | hfault := envStep_progressesOrMismatch hinv e
    · exact .inl ⟨_, congrArg (withEnv es) ht, htinv⟩
    · exact .inr (congrArg (withEnv es) hfault)

theorem step_progressesOrMismatch (hinv : s.inv = true) : ProgressesOrMismatch (step s) := by
  obtain hstep | hstep := step_eq_microStep_or_serve s <;> rw [hstep]
  · exact microStep_progressesOrMismatch hinv
  · exact serve_progressesOrMismatch hinv s.env

/-- Settles O5: the next state that the step answers is the one that meets the invariant. -/
theorem stepKeepsTheInvariant : Obligations.StepKeepsTheInvariant := by
  intro s t hinv hstep
  obtain ⟨u, hu, huinv⟩ | hfault := step_progressesOrMismatch hinv
  · cases hstep.symm.trans hu
    exact huinv
  · cases hstep.symm.trans hfault

/-- Settles O7: the step goes on, or the script is no run of the environment. -/
theorem noStepReachesAModelFault : Obligations.NoStepReachesAModelFault := fun _ hinv =>
  (step_progressesOrMismatch hinv).imp_left fun ⟨t, ht, _⟩ => ⟨t, ht⟩

/-! ### Reset -/

/-- Settles O6: at reset there is no transaction, the cursor stands at port 0, and the ports listed are those of
`PORT_INIT_FLAGS`. -/
theorem resetMeetsTheInvariant : Obligations.ResetMeetsTheInvariant := by
  have hreset : ∀ cfg : Config, cfg.wf = true → (State.resetWith cfg).inv = true := by
    intro cfg hwf
    have hparts := hwf
    simp only [Config.wf, Config.nPortOk, Config.initFlagsOk, Bool.and_eq_true, decide_eq_true_eq] at hparts
    obtain ⟨⟨⟨⟨⟨hports, -⟩, -⟩, -⟩, -⟩, hflags⟩ := hparts
    refine State.inv_iff.mpr ⟨hwf, ?ports, State.pollerOk_iff.mpr ⟨hports, Nat.zero_le _, Nat.zero_le _⟩, rfl⟩
    case ports =>
      obtain ⟨hcanonical, hbounds⟩ := Memory.ofFlags_bounds cfg.portInitFlags 0
      simp only [State.portsOk, Bool.and_eq_true, List.all_eq_true, decide_eq_true_eq]
      refine ⟨hcanonical, fun cell hcell => ?_⟩
      have hlt := (hbounds cell hcell).2
      rw [Nat.zero_add] at hlt
      exact hlt.trans_le hflags
  exact ⟨hreset Config.default (by decide), hreset⟩

/-- Settles O10: the test that `boot` makes. -/
theorem bootRefusesIllFormedConfigurations : Obligations.BootRefusesIllFormedConfigurations := fun _ =>
  ⟨fun hbad => if_neg (by simp [hbad]), fun hwf => if_pos hwf⟩

end Sys2Proof.Machine

/-! PROOFS. The generic write against the sequential program of spec/43_generic_write.md R182, phase by phase from the
last to the first, as the read stands above. -/

namespace Sys2Proof.Machine

variable {s t u : State}

/-! ### The exchange and the commit of a port write -/

theorem strictExchangeAt_portWrite : StrictExchangeAt .pwCrcTx .pwEchoRx portCommit where
  toExchangeAt := exchangeAt_portWrite
  sends_only b h := by simp [receiveStep, h]
  receives_only h := by simp [transmitStep, h]
  commit_ends h := by
    obtain ⟨_, _, _, _, _, -, -, -, -, -, rfl⟩ := portCommit_eq_next h
    rfl

/-- What R182's program does with the payload of a port write after a correct echo: the last part of
`portWriteProgram`. -/
def portWriteEffect (y c : Byte) (bytes : List Byte) (s : State) (env : List EnvEvent) : Option (Result State) :=
  match bytes with
  | [v] => programCommit (portSet (portOf c) (logicalValue v) s) (.writeDone y) env
  | v :: m :: _ => programCommit (portMaskedWrite (portOf c) v m s) (.writeDone y) env
  | [] => none

/-- The program of R182 after the length byte `n` is accepted. -/
def portWritePayload (y c n : Byte) (s : State) (env : List EnvEvent) : Option (Result State) :=
  rxBytes n.toNat s env fun bytes env =>
  crcExchange (trailer (crcOf s.cfg.crcAlgo 0 (0xF4 :: y :: c :: n :: bytes))) s env (portWriteEffect y c bytes)

theorem portSet_endTransaction (i : Nat) (v : Bool) (u : State) :
    portSet i v u.endTransaction = (portSet i v u).map State.endTransaction := by
  have hread : readPort u.endTransaction i = readPort u i := rfl
  simp only [portSet, hread]
  cases readPort u i with
  | ok f => dsimp only; split_ifs <;> rfl
  | error e => rfl

theorem portMaskedWrite_endTransaction (i : Nat) (v m : Byte) (u : State) :
    portMaskedWrite i v m u.endTransaction = (portMaskedWrite i v m u).map State.endTransaction := by
  have hread : readPort u.endTransaction i = readPort u i := rfl
  simp only [portMaskedWrite, hread]
  cases readPort u i <;> rfl

/-- The effect of the program is the engine's commit, faults included (R179, R180). -/
theorem portWriteEffect_eq {y c n : Byte} {bytes : List Byte} (htag : u.tag = some y) (hchan : u.chan = some c)
    (hlen : u.len = some n) (hbuf : u.buf = bytes) (hn : bytes.length = n.toNat) (hok : n = 1 ∨ n = 2)
    (es : List EnvEvent) : portWriteEffect y c bytes u.endTransaction es = some (withEnv es (portCommit u)) := by
  obtain rfl | rfl := hok
  · obtain ⟨v, rfl⟩ := List.length_eq_one_iff.mp hn
    have hcommit : portCommit u = orFault (portSet (portOf c) (logicalValue v) u) (writeDone y) := by
      simp [portCommit, htag, hchan, hlen, hbuf, readBuf]
    rw [hcommit, portWriteEffect, portSet_endTransaction]
    cases portSet (portOf c) (logicalValue v) u <;> rfl
  · obtain ⟨v, m, rfl⟩ := List.length_eq_two.mp hn
    have hcommit : portCommit u = orFault (portMaskedWrite (portOf c) v m u) (writeDone y) := by
      simp [portCommit, htag, hchan, hlen, hbuf, readBuf]
    rw [hcommit, portWriteEffect, portMaskedWrite_endTransaction]
    cases portMaskedWrite (portOf c) v m u <;> rfl

/-! ### The phases of a port write -/

theorem transmitStep_pwChan (h : u.eng = .pwChan) : transmitStep u = .fault .answerMismatch := by
  simp [transmitStep, h]
theorem transmitStep_pwLen (h : u.eng = .pwLen) : transmitStep u = .fault .answerMismatch := by simp [transmitStep, h]
theorem transmitStep_pwData (h : u.eng = .pwData) : transmitStep u = .fault .answerMismatch := by
  simp [transmitStep, h]

/-- The state once the payload `bytes` of a port write is there. -/
abbrev State.payloadReceived (u : State) (crc : Word) (bytes : List Byte) : State :=
  { u with
    crc := some (crcOf u.cfg.crcAlgo crc bytes), buf := u.buf ++ bytes, idx := some 0, eng := .pwCrcTx }

/-- From any position in the payload: the `m + 1` bytes still to come go to the buffer and are folded (R176). -/
theorem runsAs_portWriteData {n : Byte} {m : Nat} :
    ∀ {crc : Word} {u : State} {es : List EnvEvent} {k : List Byte → List EnvEvent → Option (Result State)},
      u.eng = .pwData → u.crc = some crc → u.len = some n → n.toNat = u.buf.length + 1 + m →
      n.toNat ≤ u.cfg.maxPayload → u.idx = some (BitVec.ofNat 8 u.buf.length) →
      (∀ bytes es, bytes.length = m + 1 → RunsAs (serve es (u.payloadReceived crc bytes)) (k bytes es)) →
      RunsAs (serve es u) (rxBytes (m + 1) u.endTransaction es k) := by
  induction m with
  | zero =>
    intro crc u es k heng hcrc hlen hn hmax hidx hk
    obtain ⟨htoNat, hlast⟩ := idx_ofNat (i := u.buf.length) (n := n) (by omega)
    refine runsAs_rxByte (heng ▸ nofun) (transmitStep_pwData heng) fun b es => ?_
    have hstep := envStep_pwData (d := b) heng hcrc hidx hlen htoNat (by omega)
    rw [if_pos (hlast.mpr hn.symm)] at hstep
    exact runsAs_cons_busy hstep nofun (hk [b] es rfl)
  | succ m ih =>
    intro crc u es k heng hcrc hlen hn hmax hidx hk
    obtain ⟨htoNat, hlast⟩ := idx_ofNat (i := u.buf.length) (n := n) (by omega)
    refine runsAs_rxByte (heng ▸ nofun) (transmitStep_pwData heng) fun b es => ?_
    have hstep := envStep_pwData (d := b) heng hcrc hidx hlen htoNat (by omega)
    rw [if_neg (mt hlast.mp (by omega))] at hstep
    have hn' : n.toNat = (u.buf ++ [b]).length + 1 + m := by
      rw [List.length_append, List.length_singleton]
      omega
    refine runsAs_cons_busy hstep (heng ▸ nofun) ?_
    have hidx' : BitVec.ofNat 8 u.buf.length + 1 = BitVec.ofNat 8 (u.buf ++ [b]).length := by
      rw [List.length_append, List.length_singleton, BitVec.ofNat_add]
      rfl
    refine ih heng rfl hlen hn' hmax (congrArg some hidx') fun bytes es hbytes => ?_
    simpa [State.payloadReceived] using hk (b :: bytes) es (by rw [List.length_cons, hbytes])

/-- From the length byte: the payload, the exchange and the commit (R176 to R181). -/
theorem runsAs_portWritePayload {y c n : Byte} {es : List EnvEvent} (hwf : u.cfg.wf = true) (heng : u.eng = .pwData)
    (hcrc : u.crc = some (crcOf u.cfg.crcAlgo 0 [0xF4, y, c, n])) (htag : u.tag = some y) (hchan : u.chan = some c)
    (hlen : u.len = some n) (hbuf : u.buf = []) (hidx : u.idx = some 0) (hok : n = 1 ∨ n = 2) :
    RunsAs (serve es u) (portWritePayload y c n u.endTransaction es) := by
  have hmax := (maxPayload_bounds hwf).1
  obtain ⟨m, hm, hm1⟩ : ∃ m, n.toNat = m + 1 ∧ m ≤ 1 := by
    obtain rfl | rfl := hok
    · exact ⟨0, rfl, Nat.zero_le 1⟩
    · exact ⟨1, rfl, le_rfl⟩
  have hn : n.toNat = u.buf.length + 1 + m := by
    rw [hbuf, List.length_nil]
    omega
  rw [portWritePayload, hm]
  refine runsAs_portWriteData heng hcrc hlen hn (by omega) (by rw [hbuf]; exact hidx) fun bytes es hbytes => ?_
  have hcrc' : (u.payloadReceived (crcOf u.cfg.crcAlgo 0 [0xF4, y, c, n]) bytes).crc =
      some (crcOf u.cfg.crcAlgo 0 (0xF4 :: y :: c :: n :: bytes)) := by simp
  refine runsAs_crcExchange strictExchangeAt_portWrite rfl hcrc' rfl fun _ _ es => ?_
  have hbuf' : (u.payloadReceived (crcOf u.cfg.crcAlgo 0 [0xF4, y, c, n]) bytes).buf = bytes := by
    simp [hbuf]
  exact portWriteEffect_eq (u := ((u.payloadReceived _ bytes).trailerSent _ _).echoed _ _) htag hchan hlen hbuf'
    (hbytes.trans hm.symm) hok es

theorem not_namesPort_iff {cfg : Config} {c : Byte} :
    ¬ namesPort cfg c = true ↔ c = 0 ∨ cfg.nPort < c.toNat := by
  have hc : c = 0 ↔ c.toNat = 0 := BitVec.toNat_inj.symm
  simp only [namesPort, Bool.and_eq_true, decide_eq_true_eq, hc]
  omega

/-- The port's part of R182's program, cut at the payload. -/
theorem portWriteProgram_eq (y : Byte) (s : State) (es : List EnvEvent) :
    portWriteProgram y s es = rxByte s es fun c es =>
      if c = 0 ∨ s.cfg.nPort < c.toNat then done (raise .badChannel s) es
      else rxByte s es fun n es =>
        if n ≠ 1 ∧ n ≠ 2 then done (raise .badLength s) es else portWritePayload y c n s es := rfl

/-- From the channel byte: the channel and the length decide as in the program (R174, R175). -/
theorem runsAs_portWriteProgram {y : Byte} {es : List EnvEvent} (hwf : u.cfg.wf = true) (heng : u.eng = .pwChan)
    (hcrc : u.crc = some (crcOf u.cfg.crcAlgo 0 [0xF4, y])) (htag : u.tag = some y) (hbuf : u.buf = []) :
    RunsAs (serve es u) (portWriteProgram y u.endTransaction es) := by
  rw [portWriteProgram_eq]
  refine runsAs_rxByte (heng ▸ nofun) (transmitStep_pwChan heng) fun c es => ?_
  by_cases hc : namesPort u.cfg c = true
  case neg =>
    rw [if_pos (not_namesPort_iff (cfg := u.endTransaction.cfg).mp hc)]
    exact serve_cons_idle (envStep_pwChan_bad heng hcrc hc) rfl
  case pos =>
    rw [if_neg fun hbad => not_namesPort_iff (cfg := u.endTransaction.cfg).mpr hbad hc]
    refine runsAs_cons_busy (envStep_pwChan heng hcrc hc) nofun ?_
    refine runsAs_rxByte (u := { u.folded c _ with chan := some c, eng := .pwLen }) nofun (transmitStep_pwLen rfl)
      fun n es => ?_
    by_cases hn : n = 1 ∨ n = 2
    case neg =>
      rw [if_pos (not_or.mp hn)]
      exact serve_cons_idle (envStep_pwLen_bad rfl rfl (by simpa [portWriteLenOk] using hn)) rfl
    case pos =>
      rw [if_neg fun hbad => not_or.mpr hbad hn]
      refine runsAs_cons_busy (envStep_pwLen_ok rfl rfl (by simpa [portWriteLenOk] using hn)) nofun ?_
      exact runsAs_portWritePayload hwf rfl rfl htag rfl rfl hbuf rfl hn

/-! ### The external write -/

theorem receiveStep_xw_trailer (heng : u.eng = .xw) (hxw : u.xw = some .trailer) (b : Byte) :
    receiveStep b u = .fault .answerMismatch :=
  (receiveStep_xw heng b).trans (need_of_eq hxw _)

theorem transmitStep_xw_fault {phase : XwPhase} (heng : u.eng = .xw) (hxw : u.xw = some phase)
    (hphase : phase ≠ .trailer) : transmitStep u = .fault .answerMismatch := by
  cases phase <;> simp_all [transmitStep, xwTransmitStep]

/-- The exchange of an EXTERNAL write, whose commit is the record alone (R61, R136 point 3). -/
theorem runsAs_xwExchange {y : Byte} {crc : Word} {es : List EnvEvent} (heng : u.eng = .xw)
    (hxw : u.xw = some .trailer) (hcrc : u.crc = some crc) (hidx : u.idx = some 0) (htag : u.tag = some y) :
    RunsAs (serve es u)
      (crcExchange (trailer crc) u.endTransaction es fun s es => done (s.emit (.writeDone y)) es) := by
  have hbusy : u.eng ≠ .idle := heng ▸ nofun
  refine runsAs_txByte hbusy (receiveStep_xw_trailer heng hxw) fun es => ?_
  refine runsAs_cons_busy (.trans (envStep_xw_trailer heng hxw) (trailerStep_low hcrc hidx)) hbusy ?_
  refine runsAs_txByte hbusy (receiveStep_xw_trailer heng hxw) fun es => ?_
  refine runsAs_cons_busy (.trans (envStep_xw_trailer heng hxw) (trailerStep_high hcrc rfl)) hbusy ?_
  refine runsAs_rxByte hbusy (transmitStep_xw_fault heng rfl nofun) fun lo es => ?_
  refine runsAs_cons_busy (.trans (envStep_xw_echo heng rfl) (echoStep_low rfl)) hbusy ?_
  refine runsAs_rxByte hbusy (transmitStep_xw_fault heng rfl nofun) fun hi es => ?_
  by_cases he : echoWord hi lo = trailer crc
  case neg =>
    rw [if_pos he]
    exact serve_cons_idle (.trans (envStep_xw_echo heng rfl) (echoStep_wrong rfl rfl hcrc he)) rfl
  case pos =>
    rw [if_neg (not_not_intro he)]
    exact serve_cons_idle (.trans (envStep_xw_echo heng rfl) <| .trans (echoStep_correct rfl rfl hcrc he) <|
      need_of_eq htag _) rfl

/-- What is served after an event that answered `r`. -/
def resume (es : List EnvEvent) (r : Result State) : Result State :=
  match r with
  | .next t => if t.eng = .idle then .next { t with env := es } else serve es t
  | .fault f => .fault f
  | .refused q => .refused q

theorem serve_cons (e : EnvEvent) (es : List EnvEvent) (s : State) : serve (e :: es) s = resume es (envStep e s) := rfl

/-- One operation of an EXTERNAL body's write (R142). -/
theorem externalWriteProgram_eq (y : Byte) (s : State) (got : List Byte) (crc : Word) (es : List EnvEvent) :
    externalWriteProgram y s got crc es =
      match extOp (extBody s y) got with
      | .abort cause => done (raise cause s) es
      | .exchange => crcExchange (trailer crc) s es fun s es => done (s.emit (.writeDone y)) es
      | .receive => rxByte s es fun b es =>
        externalWriteProgram y s (got ++ [b]) (accumulate s.cfg.crcAlgo crc b) es := by
  conv_lhs => unfold externalWriteProgram
  cases extOp (extBody s y) got with
  | abort cause => rfl
  | exchange => rfl
  | receive =>
    cases es with
    | nil => rfl
    | cons e es => cases e <;> rfl

/-- The state in which an EXTERNAL write receives, with the bytes received after the tag. -/
abbrev State.receivingExternal (u : State) (got : List Byte) : State :=
  { u with eng := .xw, xw := some (.receive got) }

/-- From any operation of the body: to receive a byte, to make the exchange, or to abort (R142). -/
theorem runsAs_externalWriteProgram {y : Byte} (es : List EnvEvent) {got : List Byte} {crc : Word} {u : State}
    (hcrc : u.crc = some crc) (htag : u.tag = some y) :
    RunsAs (resume es (xwNext y got u)) (externalWriteProgram y u.endTransaction got crc es) := by
  have hbody : extBody u.endTransaction y = extBody u y := rfl
  rw [xwNext_eq, externalWriteProgram_eq, hbody]
  cases extOp (extBody u y) got with
  | abort cause => rfl
  | exchange =>
    exact runsAs_xwExchange (u := { u with eng := .xw, xw := some .trailer, idx := some 0 }) rfl rfl hcrc rfl htag
  | receive =>
    change RunsAs (serve es (u.receivingExternal got)) (rxByte u.endTransaction es fun b es =>
      externalWriteProgram y u.endTransaction (got ++ [b]) (accumulate u.cfg.crcAlgo crc b) es)
    have hbusy : (u.receivingExternal got).eng ≠ .idle := nofun
    match es with
    | [] => exact runsAs_nil hbusy
    | .rx b :: es =>
      rw [serve_cons, envStep_xw_receive (s := u.receivingExternal got) rfl rfl hcrc htag]
      exact runsAs_externalWriteProgram es rfl htag
    | .txDone :: _ => exact serve_cons_fault (transmitStep_xw_fault (u := u.receivingExternal got) rfl rfl nofun)
    | .abort :: _ => exact serve_cons_idle (envStep_abort_busy hbusy) rfl
    | .iter _ :: _ => exact serve_cons_fault (atIdle_busy hbusy _)
    | .ext _ _ :: _ => exact serve_cons_fault (atIdle_busy hbusy _)

/-! ### The whole write -/

/-- From the tag byte, for every script: the engine is the program of R182. -/
theorem runsAs_genericWriteProgram {y : Byte} {es : List EnvEvent} (hwf : u.cfg.wf = true) (heng : u.eng = .wrTag)
    (hcrc : u.crc = some (crcOf u.cfg.crcAlgo 0 [0xF4])) (hbuf : u.buf = []) :
    RunsAs (serve (.rx y :: es) u) (genericWriteProgram u.endTransaction (.rx y :: es)) := by
  have hlookup : lookup u.endTransaction.cfg y = lookup u.cfg y := rfl
  simp only [genericWriteProgram, rxByte, hlookup]
  rcases hy : lookup u.cfg y with _ | _ | _ | _
  case none => exact serve_cons_idle (envStep_wrTag_unknown heng hcrc hy) rfl
  case some.port =>
    exact runsAs_cons_busy (envStep_wrTag_port heng hcrc hy) nofun (runsAs_portWriteProgram hwf rfl rfl rfl hbuf)
  case some.dummy => exact serve_cons_idle (envStep_wrTag_dummy heng hcrc hy) rfl
  case some.external =>
    rw [serve_cons, envStep_wrTag_external heng hcrc hy]
    exact runsAs_externalWriteProgram es rfl rfl

/-- An instruction of a generic write at rest, against the program. -/
theorem runsAs_genericWrite (hrest : s.AtRest) (y : Byte) :
    RunsAs (exec (.genericWrite y) s) (genericWriteProgram s (.rx y :: s.env)) := by
  change RunsAs (serve (.rx 0xF4 :: .rx y :: s.env) s) _
  refine runsAs_cons_busy (envStep_writeCode hrest.2) nofun ?_
  have hprogram : State.endTransaction { s with crc := some (accumulate s.cfg.crcAlgo 0 0xF4), eng := .wrTag } = s :=
    hrest.endTransaction_eq
  have hrun := runsAs_genericWriteProgram (y := y) (es := s.env)
    (u := { s with crc := some (accumulate s.cfg.crcAlgo 0 0xF4), eng := .wrTag }) hrest.cfg_wf rfl rfl hrest.buf_eq
  rwa [hprogram] at hrun

/-- Settles O38: the function code takes the engine to the tag, where it runs as the program. -/
theorem genericWriteIsItsSequentialProgram : Obligations.GenericWriteIsItsSequentialProgram :=
  fun _ y hrest => runsAs_genericWrite hrest y

end Sys2Proof.Machine

/-! PROOFS. Transactions read off the two sequential programs (spec/42_generic_read.md R162, R163;
spec/43_generic_write.md R171 to R174, R182): at rest an instruction is its program, and a program is evaluated by what
the environment answers. -/

namespace Sys2Proof.Machine

variable {s t u : State}

/-! ### An instruction at rest is its program -/

theorem exec_genericRead_of_program {y c : Byte} {r : Result State} (hrest : s.AtRest)
    (h : genericReadProgram s (.rx y :: .rx c :: s.env) = some r) : exec (.genericRead y c) s = r := by
  have hrun := genericReadIsItsSequentialProgram s y c hrest
  rwa [h] at hrun

theorem exec_genericWrite_of_program {y : Byte} {r : Result State} (hrest : s.AtRest)
    (h : genericWriteProgram s (.rx y :: s.env) = some r) : exec (.genericWrite y) s = r := by
  have hrun := genericWriteIsItsSequentialProgram s y hrest
  rwa [h] at hrun

/-- An abort at rest leaves an entry in the record and nothing else (R254). -/
theorem State.AtRest.raise_eq (hrest : s.AtRest) (cause : AbortCause) :
    raise cause s = { s with out := s.out ++ [.aborted cause] } := by
  rw [raise, hrest.endTransaction_eq]
  rfl

/-- A report and then an abort. -/
theorem State.AtRest.raise_emit_eq (hrest : s.AtRest) (cause : AbortCause) (d : Diag) :
    raise cause (s.emit (.diag d)) = { s with out := s.out ++ [.diag d, .aborted cause] } := by
  have hrest' : (s.emit (.diag d)).AtRest := hrest
  rw [hrest'.raise_eq, State.emit_out, List.append_assoc]
  rfl

theorem lookup_eq_none {cfg : Config} {y : Byte} (h : cfg.nTypes ≤ y.toNat) : lookup cfg y = none :=
  List.getElem?_eq_none h

/-! ### Requests that abort before any byte goes out -/

/-- Settles O27: the program reports an unknown tag, and stops at the channel byte where `check_length` rejects. -/
theorem rejectedReadsTransmitNothing : Obligations.RejectedReadsTransmitNothing := by
  intro s y c hrest
  refine ⟨fun htypes => ?unknown, fun hdummy => ?dummy, fun n hn hover => ?overflow⟩
  case unknown =>
    refine exec_genericRead_of_program hrest ?_
    rw [genericReadProgram_unknown (lookup_eq_none htypes), hrest.raise_emit_eq]
    rfl
  case dummy =>
    have hn : readLength s y c = .ok 0 := by simp only [readLength, hdummy]
    refine exec_genericRead_of_program hrest ?_
    rw [genericReadProgram_known (lookup_isSome_of_readLength hn)]
    simp only [readFromChannel, rxByte, hn, programCap, if_true, hrest.raise_eq]
    rfl
  case overflow =>
    refine exec_genericRead_of_program hrest ?_
    rw [genericReadProgram_known (lookup_isSome_of_readLength hn)]
    simp only [readFromChannel, rxByte, hn, programCap, if_neg (Nat.ne_zero_of_lt hover), if_pos hover,
      hrest.raise_eq]
    rfl

/-- Settles O39: both are decided by the lookup of the tag. -/
theorem rejectedWritesAbortAtTheTag : Obligations.RejectedWritesAbortAtTheTag := by
  intro s y hrest
  refine ⟨fun htypes => ?unknown, fun hdummy => ?dummy⟩
  case unknown =>
    refine exec_genericWrite_of_program hrest ?_
    simp only [genericWriteProgram, rxByte, lookup_eq_none htypes, hrest.raise_emit_eq]
    rfl
  case dummy =>
    refine exec_genericWrite_of_program hrest ?_
    simp only [genericWriteProgram, rxByte, hdummy, hrest.raise_eq]
    rfl

/-- A generic write of `PORT_TAG` to a reserved channel stops at the channel byte, whatever follows it (R174). -/
theorem exec_genericWrite_reservedChannel {k : Byte} (hrest : s.AtRest) (hk : namesPort s.cfg k = false)
    (es : List EnvEvent) :
    exec (.genericWrite s.cfg.portTag) { s with env := .rx k :: es } =
      .next { s with env := es, out := s.out ++ [.aborted .badChannel] } := by
  have hrest' : ({ s with env := .rx k :: es } : State).AtRest := hrest
  have hreserved : k = 0 ∨ s.cfg.nPort < k.toNat := not_namesPort_iff.mp (by simp [hk])
  refine exec_genericWrite_of_program hrest' ?_
  simp only [genericWriteProgram, portWriteProgram, rxByte, lookup_portTag hrest.cfg_wf, if_pos hreserved,
    hrest'.raise_eq]
  rfl

/-- Settles O35: a status read is a generic read of `PORT_TAG`, and the three writes are generic writes of it whose
further bytes stand in the script. -/
theorem reservedChannelsAbort : Obligations.ReservedChannelsAbort := by
  intro s k v m n hrest hk
  obtain ⟨hpset, hpflags, hbad⟩ := genericWriteToThePortIsThePortWrite s k n v m s.env
  refine ⟨fun hk0 => ?read, ?pset, ?pflags, ?badLength⟩
  case read =>
    have hn : readLength s s.cfg.portTag k = .abort .badChannel := by
      simp only [readLength, lookup_portTag hrest.cfg_wf, portReadLength, if_neg hk0, hk]
      rfl
    have hknown : (lookup s.cfg s.cfg.portTag).isSome = true := by rw [lookup_portTag hrest.cfg_wf]; rfl
    refine exec_genericRead_of_program (c := k) hrest ?_
    rw [genericReadProgram_known hknown]
    simp only [readFromChannel, rxByte, hn, programCap, hrest.raise_eq]
    rfl
  case pset => exact hpset.symm.trans (exec_genericWrite_reservedChannel hrest hk _)
  case pflags => exact hpflags.symm.trans (exec_genericWrite_reservedChannel hrest hk _)
  case badLength => exact hbad.symm.trans (exec_genericWrite_reservedChannel hrest hk _)

/-! ### The external write -/

/-- The exchange of a program against the answers to it: the trailer goes out, and the echo decides (R124, R125). -/
theorem crcExchange_echoAnswers (w e : Word) (s : State) (es : List EnvEvent)
    (k : State → List EnvEvent → Option (Result State)) :
    crcExchange w s (echoAnswers e ++ es) k =
      if e ≠ w then
        some (.next { raise .crcMismatch ((s.emit (.tx (lowByte w))).emit (.tx (highByte w))) with env := es })
      else k ((s.emit (.tx (lowByte w))).emit (.tx (highByte w))) es := by
  simp [crcExchange, echoAnswers, txByte, rxByte, echoWord_bytes]

/-- The bytes that the body receives, one after another, from any position in them (R142). -/
theorem externalWriteProgram_receives {y : Byte} {left : List Byte} {es : List EnvEvent} :
    ∀ {got : List Byte} {crc : Word},
      (∀ n, n < left.length → extOp (extBody s y) (got ++ left.take n) = .receive) →
      externalWriteProgram y s got crc (left.map .rx ++ es) =
        externalWriteProgram y s (got ++ left) (crcOf s.cfg.crcAlgo crc left) es := by
  induction left with
  | nil =>
    intro got crc _
    rw [List.append_nil]
    rfl
  | cons b left ih =>
    intro got crc hreceive
    have hfirst : extOp (extBody s y) got = .receive := by simpa using hreceive 0 (Nat.succ_pos _)
    rw [externalWriteProgram_eq, hfirst]
    refine (ih fun n hn => ?_).trans ?_
    · simpa using hreceive (n + 1) (Nat.succ_lt_succ hn)
    · rw [List.append_assoc, List.singleton_append, crcOf_cons]

/-- Settles O36: the program receives the body's bytes, and the exchange with a correct echo records the commit. -/
theorem externalWriteCompletes : Obligations.ExternalWriteCompletes := by
  intro s y got rest crc hrest hy hreceive hexchange henv
  refine exec_genericWrite_of_program hrest ?_
  simp only [genericWriteProgram, rxByte, hy]
  rw [henv, List.append_assoc, externalWriteProgram_receives (by simpa using hreceive), externalWriteProgram_eq,
    List.nil_append, hexchange]
  have hcrc : crcOf s.cfg.crcAlgo (crcOf s.cfg.crcAlgo 0 [0xF4, y]) got = crc := by
    simp only [crc, crcOf_cons, crcOf_nil]
  dsimp only
  rw [hcrc, crcExchange_echoAnswers, if_neg (not_not_intro rfl)]
  simp [done, trailerOut, State.emit]

end Sys2Proof.Machine

/-! PROOFS. Transactions with a wrong echo, and the port's reads (spec/42_generic_read.md R159, R165;
spec/43_generic_write.md R178; spec/44_port.md R201 to R203). Up to the second echo byte a wrong echo runs as the correct
one, so the runs to the trailer that stand above are used again. -/

namespace Sys2Proof.Machine

variable {s t u : State}

/-! ### A wrong echo -/

/-- A wrong echo aborts (R159, R178): the whole exchange. -/
theorem serve_exchange_abort {p q : Eng} {crc e : Word} {commit : State → Result State} {es : List EnvEvent}
    (hx : ExchangeAt p q commit) (heng : s.eng = p) (hcrc : s.crc = some crc) (hidx : s.idx = some 0)
    (he : e ≠ trailer crc) :
    serve (echoAnswers e ++ es) s =
      .next { raise .crcMismatch s with
        env := es, out := s.out ++ trailerOut crc ++ [.aborted .crcMismatch] } := by
  rw [serve_exchange hx heng hcrc hidx]
  have hwrong : echoWord (highByte e) (lowByte e) ≠ trailer crc := by rwa [echoWord_bytes]
  refine .trans (serve_cons_idle (.trans (hx.receives _ rfl) (echoStep_wrong rfl rfl hcrc hwrong)) rfl) ?_
  rfl

/-- Settles O25: the read runs to its trailer, and there the echo aborts it. -/
theorem genericReadWithAWrongEchoAborts : Obligations.GenericReadWithAWrongEchoAborts := by
  intro s y c bytes e rest hrest hlength hbytes hpos hmax he henv
  have hrun : exec (.genericRead y c) s = serve (.rx 0xF2 :: .rx y :: .rx c :: s.env) s := rfl
  rw [hrun, henv, readAnswers, List.append_assoc, serve_readToTrailer hrest hlength hbytes hpos hmax]
  refine .trans (serve_exchange_abort exchangeAt_read rfl rfl rfl he) ?_
  exact congrArg Host.Outcome.next (hrest.commit_eq (t := s) rfl _ _)

/-- Settles O33: either write runs to its trailer, and there the echo aborts it. -/
theorem portWriteWithAWrongEchoAppliesNothing : Obligations.PortWriteWithAWrongEchoAppliesNothing := by
  intro s k v m e rest hrest hk henv
  refine ⟨fun he => ?pset, fun he => ?pflags⟩
  case pset =>
    have hrun : exec (.pset k v) s =
        serve (.rx 0xF4 :: .rx s.cfg.portTag :: .rx k :: .rx 1 :: .rx v :: (List.map .rx [] ++ s.env)) s := rfl
    rw [hrun, henv, serve_portWriteToTrailer hrest hk rfl rfl]
    refine .trans (serve_exchange_abort exchangeAt_portWrite rfl rfl rfl he) ?_
    exact congrArg Host.Outcome.next (hrest.commit_eq (t := s) rfl _ _)
  case pflags =>
    have hrun : exec (.pflags k v m) s =
        serve (.rx 0xF4 :: .rx s.cfg.portTag :: .rx k :: .rx 2 :: .rx v :: (List.map .rx [m] ++ s.env)) s := rfl
    rw [hrun, henv, serve_portWriteToTrailer hrest hk rfl rfl]
    refine .trans (serve_exchange_abort exchangeAt_portWrite rfl rfl rfl he) ?_
    exact congrArg Host.Outcome.next (hrest.commit_eq (t := s) rfl _ _)

/-! ### The port's reads -/

/-- Settles O51: an accepted length is that of the payload. -/
theorem readLengthAgreesWithRead : Obligations.ReadLengthAgreesWithRead := fun _ _ _ _ hn hpos =>
  exists_readPayload hn hpos.ne'

theorem levelBitmap_length (s : State) : (levelBitmap s).length = ceilDiv8 s.cfg.nPort := (pack_length_and_bits _ _).1

/-- A legal configuration has a port, and its bitmap fits the buffer (R10, R74). -/
theorem bitmap_bounds {cfg : Config} (h : cfg.wf = true) :
    1 ≤ ceilDiv8 cfg.nPort ∧ ceilDiv8 cfg.nPort ≤ cfg.maxPayload := by
  simp only [Config.wf, Config.nPortOk, Config.maxPayloadOk, Bool.and_eq_true, decide_eq_true_eq] at h
  obtain ⟨⟨⟨⟨⟨hpos, -⟩, -⟩, -⟩, ⟨-, hfits⟩, -⟩, -⟩ := h
  exact ⟨(Nat.le_div_iff_mul_le (by decide)).mpr (by omega), hfits⟩

/-- Settles O28: PBITMAP is a generic read of the port's channel 0, whose completion has no effect. -/
theorem pbitmapCompletes : Obligations.PbitmapCompletes := by
  intro s rest crc hrest henv
  have hport := lookup_portTag hrest.cfg_wf
  obtain ⟨hpos, hmax⟩ := bitmap_bounds hrest.cfg_wf
  rw [← levelBitmap_length s] at hpos hmax henv
  have hlength : readLength s s.cfg.portTag 0 = .ok (levelBitmap s).length := by
    rw [levelBitmap_length]
    simp only [readLength, hport]
    rfl
  have hbytes : readPayload s s.cfg.portTag 0 = .ok (levelBitmap s) := by
    simp only [readPayload, hport]
    rfl
  have hdone : readDone s.cfg.portTag 0 s = .ok s :=
    readDone_eq_ok.mpr (.inl ⟨hport, portReadDone_eq_ok.mpr (.inl ⟨rfl, rfl⟩)⟩)
  obtain ⟨t, ht, hexec⟩ :=
    genericReadCompletes s s.cfg.portTag 0 (levelBitmap s) rest hrest hlength hbytes hpos hmax henv
  obtain rfl := Except.ok.inj (hdone.symm.trans ht)
  exact hexec

/-- Settles O30: the completed read leaves the ports that `read_done` leaves. -/
theorem deliveredReportIsCleared : Obligations.DeliveredReportIsCleared := by
  rintro s t k crc rest hrest hk rfl henv hexec
  obtain ⟨hk0, hlt⟩ := namesPort_iff.mp hk
  obtain ⟨f, hdone, hchanged, hpoll, hothers⟩ := (readDoneClearsTheReport s).2 k hk
  have hports : t.ports = (s.setFlags (portOf k) f).ports := by
    rw [Except.ok.inj (hdone.symm.trans (portReadDone_eq_ok.mpr (.inr ⟨hk0, hlt, rfl⟩)))]
    cases hexec.symm.trans (preadStatusCompletes s k rest hrest hk henv)
    rfl
  have hflags : ∀ j, t.flags j = (s.setFlags (portOf k) f).flags j := fun j => congrArg (Memory.read · j) hports
  have hwf : s.ports.wf = true := State.ports_wf_of_portsOk (State.portsOk_of_inv hrest.1)
  rw [hflags, flags_setFlags_same hwf]
  exact ⟨hchanged, hpoll, hothers, fun j hj => (hflags j).trans (flags_setFlags_other hj)⟩

end Sys2Proof.Machine

/-! PROOFS. Where a step may take `ENG`, and what an instruction may write (spec/10_state.md R32, R33, R44 to R47;
spec/20_memory.md section 3). The positions follow from what each step answers. The frame of the poller is an induction
over the run; the frame of the ports is read off the sequential programs, where the tag and the channel that a commit
uses stand as the bytes received. -/

namespace Sys2Proof.Machine

variable {s t u : State}

/-! ### The successors of a position -/

theorem trailerStep_eng {q : Eng} (h : trailerStep (fun s => { s with eng := q }) s = .next t) :
    t.eng = s.eng ∨ t.eng = q := by
  obtain ⟨c, i, -, -, rfl⟩ := trailerStep_eq_next.mp h
  split
  · exact .inr rfl
  · exact .inl rfl

theorem echoStep_eng {commit : State → Result State} {e : Byte} (hcommit : ∀ u v, commit u = .next v → v.eng = .idle)
    (h : echoStep commit e s = .next t) : t.eng = s.eng ∨ t.eng = .idle := by
  obtain ⟨i, -, ⟨-, rfl⟩ | ⟨-, lo, c, -, -, ⟨-, rfl⟩ | ⟨-, h⟩⟩⟩ := echoStep_eq_next.mp h
  · exact .inl rfl
  · exact .inr rfl
  · exact .inr (hcommit _ _ h)

theorem readCommit_eng (h : readCommit s = .next t) : t.eng = .idle := (readCommit_endedByCommit h).1

theorem portCommit_eng (h : portCommit s = .next t) : t.eng = .idle := (portCommit_endedByCommit h).1

theorem xwCommit_eng (h : xwCommit s = .next t) : t.eng = .idle := by
  obtain ⟨y, -, rfl⟩ := xwCommit_eq_next h
  rfl

theorem xwNext_eng {y : Byte} {got : List Byte} (h : xwNext y got s = .next t) : t.eng = .xw ∨ t.eng = .idle := by
  obtain rfl | rfl | ⟨cause, rfl⟩ := xwNext_eq_next h
  · exact .inl rfl
  · exact .inl rfl
  · exact .inr rfl

theorem dispatchStep_eng {b : Byte} (h : dispatchStep b s = .next t) :
    t.eng = .rdTag ∨ t.eng = .wrTag ∨ t.eng = .idle := by
  rw [dispatchStep_eq] at h
  dsimp only at h
  split_ifs at h <;> cases h
  · exact .inl rfl
  · exact .inr (.inl rfl)
  · exact .inr (.inr rfl)

theorem xwReceiveStep_eng {b : Byte} (heng : s.eng = .xw) (h : xwReceiveStep b s = .next t) :
    t.eng = .xw ∨ t.eng = .idle := by
  obtain ⟨got, c, y, -, -, -, h⟩ | ⟨-, h⟩ := xwReceiveStep_eq_next h
  · exact xwNext_eng h
  · exact heng ▸ echoStep_eng (fun _ _ => xwCommit_eng) h

theorem receiveStep_successors {b : Byte} (h : receiveStep b s = .next t) : t.eng ∈ s.eng.successors := by
  cases heng : s.eng <;> simp only [receiveStep, heng, reduceCtorEq] at h
  case idle => obtain ht | ht | ht := dispatchStep_eng h <;> simp [Eng.successors, ht]
  case rdTag => obtain ⟨c, -, ⟨-, rfl⟩ | ⟨-, rfl⟩⟩ := rdTagStep_eq_next h <;> simp [Eng.successors]
  case rdChan =>
    obtain ⟨c, y, -, -, ⟨cause, rfl, -⟩ | ⟨n, -, -, rfl⟩⟩ := rdChanStep_eq_next h <;> simp [Eng.successors]
  case rdEchoRx =>
    obtain ht | ht := echoStep_eng (fun _ _ => readCommit_eng) h <;> simp [Eng.successors, ht, heng]
  case wrTag =>
    obtain ⟨c, -, ⟨-, rfl⟩ | ⟨-, rfl⟩ | ⟨-, rfl⟩ | ⟨-, h⟩⟩ := wrTagStep_eq_next h
    · simp [Eng.successors]
    · simp [Eng.successors]
    · simp [Eng.successors]
    · obtain ht | ht := xwNext_eng h <;> simp [Eng.successors, ht]
  case pwChan =>
    obtain ⟨c, -, rfl⟩ := pwChanStep_eq_next h
    split <;> simp [Eng.successors]
  case pwLen =>
    obtain ⟨c, -, rfl⟩ := pwLenStep_eq_next h
    split <;> simp [Eng.successors]
  case pwData =>
    obtain ⟨c, i, n, -, -, -, -, -, rfl⟩ := pwDataStep_eq_next h
    split <;> simp [Eng.successors, heng]
  case pwEchoRx =>
    obtain ht | ht := echoStep_eng (fun _ _ => portCommit_eng) h <;> simp [Eng.successors, ht, heng]
  case xw => obtain ht | ht := xwReceiveStep_eng heng h <;> simp [Eng.successors, ht]

theorem transmitStep_successors (h : transmitStep s = .next t) : t.eng ∈ s.eng.successors := by
  cases heng : s.eng <;> simp only [transmitStep, heng, reduceCtorEq] at h
  case rdLenTx =>
    obtain ⟨n, c, y, k, -, -, -, -, ⟨cause, -, rfl⟩ | ⟨bytes, -, -, rfl⟩⟩ := rdLenStep_eq_next h <;>
      simp [Eng.successors]
  case rdDataTx =>
    obtain ⟨i, n, b, c, -, -, -, -, -, rfl⟩ := rdDataStep_eq_next h
    split <;> simp [Eng.successors, heng]
  case rdCrcTx =>
    obtain ht | ht := trailerStep_eng (q := .rdEchoRx) h <;> simp [Eng.successors, ht, heng]
  case pwCrcTx =>
    obtain ht | ht := trailerStep_eng (q := .pwEchoRx) h <;> simp [Eng.successors, ht, heng]
  case xw =>
    have hstep := (xwTransmitStep_eq_next h).2
    obtain ⟨c, i, -, -, rfl⟩ := trailerStep_eq_next.mp hstep
    split <;> simp [Eng.successors, heng]

theorem busAbort_eng (s : State) : (busAbort s).eng = .idle := by
  unfold busAbort
  split
  next h => exact h
  next => rfl

/-- Settles O13: the answer is a received byte, a transmitted one, or an abort. -/
theorem engineFollowsItsPositions : Obligations.EngineFollowsItsPositions := by
  intro s t e hbus h
  cases e with
  | rx b => exact receiveStep_successors h
  | txDone => exact transmitStep_successors h
  | abort =>
    cases h
    rw [busAbort_eng]
    cases s.eng <;> decide
  | iter v => cases hbus
  | ext y body => cases hbus

/-! ### What every answer of the bus leaves -/

/-- Only ports, transaction registers, script and record differ: what the mainloop and the EXTERNAL bodies hold does
not. -/
def State.SameBesidePorts (s t : State) : Prop :=
  t.cfg = s.cfg ∧ t.pollCur = s.pollCur ∧ t.runMax = s.runMax ∧ t.cache = s.cache ∧
    t.alertPresent = s.alertPresent ∧ t.ext = s.ext

theorem State.SameBesidePorts.trans (h₁ : s.SameBesidePorts t) (h₂ : t.SameBesidePorts u) : s.SameBesidePorts u := by
  obtain ⟨hcfg, hcur, hmax, hcache, halert, hext⟩ := h₁
  obtain ⟨kcfg, kcur, kmax, kcache, kalert, kext⟩ := h₂
  exact ⟨kcfg.trans hcfg, kcur.trans hcur, kmax.trans hmax, kcache.trans hcache, kalert.trans halert, kext.trans hext⟩

theorem State.SamePersistent.sameBesidePorts (h : s.SamePersistent t) : s.SameBesidePorts t := by
  obtain ⟨hcfg, -, hcur, hmax, hcache, halert, hext⟩ := h
  exact ⟨hcfg, hcur, hmax, hcache, halert, hext⟩

/-- An effect on the ports alone. -/
theorem State.SameBesidePorts.of_ports (h : t = { s with ports := t.ports }) : s.SameBesidePorts t := by
  rw [h]
  exact ⟨rfl, rfl, rfl, rfl, rfl, rfl⟩

theorem readCommit_sameBesidePorts (h : readCommit s = .next t) : s.SameBesidePorts t := by
  obtain ⟨y, c, u, -, -, hu, rfl⟩ := readCommit_eq_next h
  exact (State.SameBesidePorts.of_ports (readDone_frame hu).1 :)

theorem portCommit_sameBesidePorts (h : portCommit s = .next t) : s.SameBesidePorts t := by
  obtain ⟨y, c, n, v, u, -, -, -, -, ⟨-, hu⟩ | ⟨-, m, -, hu⟩, rfl⟩ := portCommit_eq_next h
  · exact (State.SameBesidePorts.of_ports (portSet_frame hu) :)
  · exact (State.SameBesidePorts.of_ports (portMaskedWrite_frame hu) :)

/-- An answer of the bus writes nothing persistent, or it runs one of the two commits (R160, R179, R180). -/
theorem envStep_samePersistent_or_runs {e : EnvEvent} (hbus : e.answersBus = true) (h : envStep e s = .next t) :
    s.SamePersistent t ∨ ∃ hi, s.eng = .rdEchoRx ∧ readCommit { s with echoHi := some hi } = .next t ∨
      s.eng = .pwEchoRx ∧ portCommit { s with echoHi := some hi } = .next t := by
  obtain hsame | ⟨hi, rfl, hcommits⟩ := envStep_samePersistent_or_commits hbus h
  · exact .inl hsame
  · obtain heng | heng := hcommits.position
    · have hstep : echoStep readCommit hi s = .next t := (exchangeAt_read.receives hi heng).symm.trans h
      exact (echoStep_samePersistent_or_commits hstep).imp_right fun ⟨_, hcommit⟩ => ⟨hi, .inl ⟨heng, hcommit⟩⟩
    · have hstep : echoStep portCommit hi s = .next t := (exchangeAt_portWrite.receives hi heng).symm.trans h
      exact (echoStep_samePersistent_or_commits hstep).imp_right fun ⟨_, hcommit⟩ => ⟨hi, .inr ⟨heng, hcommit⟩⟩

/-- An answer of the bus writes nothing persistent but ports. -/
theorem envStep_sameBesidePorts {e : EnvEvent} (hbus : e.answersBus = true) (h : envStep e s = .next t) :
    s.SameBesidePorts t := by
  obtain hsame | ⟨hi, ⟨-, hcommit⟩ | ⟨-, hcommit⟩⟩ := envStep_samePersistent_or_runs hbus h
  · exact hsame.sameBesidePorts
  · exact (readCommit_sameBesidePorts hcommit :)
  · exact (portCommit_sameBesidePorts hcommit :)

/-- A property that answers of the bus keep is kept by the run of a request: its first event is a received byte, and
inside the transaction only answers of the bus are events. -/
theorem serve_request_induction {P : State → Prop} {b : Byte} {es : List EnvEvent}
    (step : ∀ e u v, P u → e.answersBus = true → envStep e u = .next v → P v)
    (script : ∀ u es, P u → P { u with env := es }) (hP : P s) (h : serve (.rx b :: es) s = .next t) : P t := by
  cases hu : envStep (.rx b) s with
  | next u =>
    have hPu : P u := step _ s u hP rfl hu
    by_cases hidle : u.eng = .idle
    · rw [serve_cons_idle hu hidle] at h
      cases h
      exact script u es hPu
    · rw [serve_cons_busy hu hidle] at h
      exact serve_induction (P := fun u => P u ∧ u.eng ≠ .idle) (Q := P)
        (busy := fun e u v ⟨hPu, hbusy⟩ he hv => ⟨step e u v hPu (answersBus_of_busy hbusy he) he, hv⟩)
        (ends := fun e u v ⟨hPu, hbusy⟩ he _ => step e u v hPu (answersBus_of_busy hbusy he) he)
        (waits := fun _ hPu => hPu.1) (env := script) ⟨hPu, hidle⟩ h
  | fault f => rw [serve_cons_fault hu] at h; cases h
  | refused q => simp [serve, hu] at h

/-- Settles O18: an instruction is the run of a request, and no answer of the bus writes what the mainloop holds. -/
theorem noInstructionWritesThePoller : Obligations.NoInstructionWritesThePoller := by
  intro i s t h
  obtain ⟨b, bytes, hbytes⟩ := exists_encode_eq_cons s.cfg i
  rw [exec_eq_transact, transact, hbytes] at h
  exact serve_request_induction (P := s.SameBesidePorts) (fun _ _ _ hsame hbus he =>
    hsame.trans (envStep_sameBesidePorts hbus he)) (fun _ _ hsame => hsame) ⟨rfl, rfl, rfl, rfl, rfl, rfl⟩ h

end Sys2Proof.Machine

/-! PROOFS. The residue of the default CRC (spec/95_test_vectors.md L2.CRC.8; spec/40_crc.md R121, R163), the aggregate
alert (spec/45_mainloop.md R235), and what an EXTERNAL body may change (spec/10_state.md R61). -/

namespace Sys2Proof.Machine

variable {s t u : State}

/-! ### A message and its own CRC -/

/-- Bits that are 0 shift out without the polynomial. -/
theorem crcBit_iterate_of_low_zero {n : Nat} {w : Word} (h : ∀ i < n, w.getLsbD i = false) :
    (crcBit .oneWire)^[n] w = w >>> n := by
  induction n generalizing w with
  | zero => simp
  | succ n ih =>
    have hbit : crcBit .oneWire w = w >>> 1 := by
      rw [crcBit_oneWire, h 0 n.succ_pos, if_neg Bool.false_ne_true]
    have hlow : ∀ i < n, (w >>> 1).getLsbD i = false := fun i hi => by
      simpa [Nat.add_comm] using h (i + 1) (by omega)
    rw [Function.iterate_succ_apply, hbit, ih hlow, ← BitVec.shiftRight_add, Nat.add_comm]

/-- Folding the register's own low byte clears it and lets the high byte move down. -/
theorem accumulate_lowByte (c : Word) : accumulate .oneWire c (lowByte c) = c >>> 8 := by
  have hlow : ∀ i < 8, (c ^^^ (lowByte c).setWidth 16).getLsbD i = false := fun i hi => by
    simp [lowByte, BitVec.getLsbD_setWidth, hi]
    omega
  have hhigh : (c ^^^ (lowByte c).setWidth 16) >>> 8 = c >>> 8 := by
    ext i hi
    simp [lowByte, BitVec.getLsbD_setWidth]
  exact (crcBit_iterate_of_low_zero hlow).trans hhigh

theorem crcOf_append (a : CrcAlgo) (crc : Word) (bytes more : List Byte) :
    crcOf a crc (bytes ++ more) = crcOf a (crcOf a crc bytes) more := List.foldl_append

/-- Settles O22: each of the two bytes is the register's own low byte at its turn. -/
theorem ownCrcFoldsToZero : Obligations.OwnCrcFoldsToZero := by
  intro crc bytes
  have hhigh (c : Word) : highByte c = lowByte (c >>> 8) := rfl
  rw [crcOf_append, crcOf_pair, accumulate_lowByte, hhigh, accumulate_lowByte, ← BitVec.shiftRight_add]
  exact BitVec.ushiftRight_eq_zero (by decide)

theorem trailer_ne (crc : Word) : trailer crc ≠ crc := by
  intro h
  simpa [trailer] using congrArg (BitVec.getLsbD · 0) h

/-- Settles O23: the inversion changes every bit, and the CRC's own bytes assemble to the CRC. -/
theorem trailerIsNeverTheCrc : Obligations.TrailerIsNeverTheCrc := fun crc =>
  ⟨trailer_ne crc, by rw [echoWord_bytes]; exact (trailer_ne crc).symm⟩

/-! ### The aggregate alert -/

theorem toNat_lt_nTypes_of_lookup {cfg : Config} {y : Byte} {impl : TypeImpl} (h : lookup cfg y = some impl) :
    y.toNat < cfg.nTypes := (List.getElem?_eq_some_iff.mp h).1

theorem alertCheck_eq_true_iff {y : Byte} :
    alertCheck s y = true ↔ (lookup s.cfg y = some .port ∧ portAlertCheck s = true) ∨
      (lookup s.cfg y = some .external ∧ (extBody s y).alert = true) := by
  unfold alertCheck
  split <;> simp_all

theorem portAlertCheck_eq_true_iff :
    portAlertCheck s = true ↔ ∃ i, i < s.cfg.nPort ∧ pending (s.flags i) = true ∧ flagAlert (s.flags i) = true := by
  simp [portAlertCheck, alerting]

/-- Every registry index is a tag byte, so the OR over the indices is the OR over the tags. -/
theorem anyAlert_eq_true_iff : anyAlert s = true ↔ ∃ y : Byte, alertCheck s y = true := by
  simp only [anyAlert, List.any_eq_true, List.mem_range]
  constructor
  · rintro ⟨n, -, h⟩
    exact ⟨_, h⟩
  · rintro ⟨y, h⟩
    have hlt : y.toNat < s.cfg.nTypes := by
      obtain ⟨hy, -⟩ | ⟨hy, -⟩ := alertCheck_eq_true_iff.mp h <;> exact toNat_lt_nTypes_of_lookup hy
    exact ⟨y.toNat, hlt, by rwa [BitVec.ofNat_toNat, BitVec.setWidth_eq]⟩

/-- Settles O59: a legal registry has the port's entry, and its other alerts are EXTERNAL ones. -/
theorem aggregateAlertIsAnArmedReport : Obligations.AggregateAlertIsAnArmedReport := by
  intro s hwf
  change _ ↔ (∃ i, i < s.cfg.nPort ∧ pending (s.flags i) = true ∧ flagAlert (s.flags i) = true) ∨ _
  rw [anyAlert_eq_true_iff, ← portAlertCheck_eq_true_iff]
  constructor
  · rintro ⟨y, h⟩
    obtain ⟨-, hport⟩ | hext := alertCheck_eq_true_iff.mp h
    · exact .inl hport
    · exact .inr ⟨y, hext⟩
  · rintro (hport | ⟨y, hext⟩)
    · exact ⟨_, alertCheck_eq_true_iff.mpr (.inl ⟨lookup_portTag hwf, hport⟩)⟩
    · exact ⟨y, alertCheck_eq_true_iff.mpr (.inr hext)⟩

/-! ### An EXTERNAL body moves on -/

theorem lookup_filter_ne {β : Type} {y z : Byte} (h : z ≠ y) (l : List (Byte × β)) :
    (l.filter fun e => e.1 != y).lookup z = l.lookup z := by
  induction l with
  | nil => rfl
  | cons e l ih =>
    obtain ⟨x, b⟩ := e
    by_cases hx : x = y
    · simp [hx, ih, List.lookup_cons, beq_eq_false_iff_ne.mpr h]
    · simp [hx, ih, List.lookup_cons]

@[simp] theorem extBody_setExtBody_same (s : State) (y : Byte) (body : ExtBody) :
    extBody (setExtBody y body s) y = body := by
  simp [extBody, setExtBody]

theorem extBody_setExtBody_other {y z : Byte} (h : z ≠ y) (s : State) (body : ExtBody) :
    extBody (setExtBody y body s) z = extBody s z := by
  simp [extBody, setExtBody, List.lookup_cons, beq_eq_false_iff_ne.mpr h, lookup_filter_ne h]

/-- Settles O60: the event replaces one entry of the table of bodies. -/
theorem externalBodyChangesNoCoreState : Obligations.ExternalBodyChangesNoCoreState := by
  intro s t y body h
  obtain ⟨hidle, hstep⟩ := atIdle_eq_next.mp h
  obtain ⟨hlookup, rfl⟩ := extStep_eq_next.mp hstep
  exact ⟨hidle, hlookup, extBody_setExtBody_same s y body, fun z hz => extBody_setExtBody_other hz s body, rfl⟩

end Sys2Proof.Machine

/-! PROOFS. The frame of the port space for every instruction (spec/20_memory.md section 3; spec/44_port.md sections 4
and 5). A port changes only where a commit runs, and there it is the port of the channel that the transaction holds. Once
tag and channel are there no answer of the bus replaces them, so that channel is the request's. -/

namespace Sys2Proof.Machine

variable {s t u v : State} {j : Nat}

/-! ### Which port a commit changes -/

/-- A commit at this position, with these transaction registers, may change port `j` (R203, R179, R180). -/
def State.CommitsPort (s : State) (j : Nat) : Prop :=
  ∃ y c, s.tag = some y ∧ s.chan = some c ∧ j = portOf c ∧ j < s.cfg.nPort ∧
    (s.eng = .rdEchoRx ∧ lookup s.cfg y = some .port ∧ c ≠ 0 ∨ s.eng = .pwEchoRx)

theorem State.SamePersistent.flags_eq (h : s.SamePersistent t) (j : Nat) : t.flags j = s.flags j :=
  congrArg (Memory.read · j) h.2.1

/-- Only the port that is written differs after the write. -/
theorem eq_of_setFlags_ne {i : Nat} {f : Byte} (h : (s.setFlags i f).flags j ≠ s.flags j) : j = i :=
  not_imp_comm.mp flags_setFlags_other h

theorem readCommit_changes (h : readCommit s = .next t) (hj : t.flags j ≠ s.flags j) :
    ∃ y c, s.tag = some y ∧ s.chan = some c ∧ lookup s.cfg y = some .port ∧ c ≠ 0 ∧ j = portOf c ∧
      j < s.cfg.nPort := by
  obtain ⟨y, c, u, htag, hchan, hu, rfl⟩ := readCommit_eq_next h
  obtain ⟨hy, hdone⟩ | ⟨-, rfl⟩ := readDone_eq_ok.mp hu
  · obtain ⟨-, rfl⟩ | ⟨hc, hlt, rfl⟩ := portReadDone_eq_ok.mp hdone
    · exact absurd rfl hj
    · obtain rfl : j = portOf c := eq_of_setFlags_ne hj
      exact ⟨y, c, htag, hchan, hy, hc, rfl, hlt⟩
  · exact absurd rfl hj

theorem portCommit_changes (h : portCommit s = .next t) (hj : t.flags j ≠ s.flags j) :
    ∃ y c, s.tag = some y ∧ s.chan = some c ∧ j = portOf c ∧ j < s.cfg.nPort := by
  obtain ⟨y, c, n, v, u, htag, hchan, -, -, ⟨-, hu⟩ | ⟨-, m, -, hu⟩, rfl⟩ := portCommit_eq_next h
  · obtain ⟨hlt, rfl⟩ := portSet_eq_ok.mp hu
    by_cases hv : lvl (s.flags (portOf c)) = logicalValue v
    · rw [if_pos hv] at hj
      exact absurd rfl hj
    · rw [if_neg hv] at hj
      obtain rfl : j = portOf c := eq_of_setFlags_ne hj
      exact ⟨y, c, htag, hchan, rfl, hlt⟩
  · obtain ⟨hlt, rfl⟩ := portMaskedWrite_eq_ok.mp hu
    obtain rfl : j = portOf c := eq_of_setFlags_ne hj
    exact ⟨y, c, htag, hchan, rfl, hlt⟩

/-- An answer of the bus that changes a port is a commit of that port. -/
theorem envStep_changes {e : EnvEvent} (hbus : e.answersBus = true) (h : envStep e s = .next t)
    (hj : t.flags j ≠ s.flags j) : s.CommitsPort j := by
  obtain hsame | ⟨hi, ⟨heng, hcommit⟩ | ⟨heng, hcommit⟩⟩ := envStep_samePersistent_or_runs hbus h
  · exact absurd (hsame.flags_eq j) hj
  · obtain ⟨y, c, htag, hchan, hy, hc, hjc, hlt⟩ := readCommit_changes hcommit hj
    exact ⟨y, c, htag, hchan, hjc, hlt, .inl ⟨heng, hy, hc⟩⟩
  · obtain ⟨y, c, htag, hchan, hjc, hlt⟩ := portCommit_changes hcommit hj
    exact ⟨y, c, htag, hchan, hjc, hlt, .inr heng⟩

/-! ### Which port a run changes -/

/-- Inside the transaction nothing persistent is written (R184). -/
theorem envStep_samePersistent_of_busy {e : EnvEvent} (hbus : e.answersBus = true) (h : envStep e s = .next t)
    (hbusy : t.eng ≠ .idle) : s.SamePersistent t := by
  obtain hsame | ⟨_, -, hcommits⟩ := envStep_samePersistent_or_commits hbus h
  · exact hsame
  · exact absurd hcommits.ended.1 hbusy

/-- Answers of the bus keep `Q` while the transaction goes on. -/
def KeptInside (Q : State → Prop) : Prop :=
  ∀ {e : EnvEvent} {s t : State}, Q s → e.answersBus = true → envStep e s = .next t → t.eng ≠ .idle → Q t

/-- A run from inside a transaction that changes a port commits it, from a state that has what the run keeps. -/
theorem serve_changes {Q : State → Prop} (hkept : KeptInside Q) {es : List EnvEvent} (hsame : s.SamePersistent u)
    (hbusy : u.eng ≠ .idle) (hQ : Q u) (h : serve es u = .next t) (hj : t.flags j ≠ s.flags j) :
    ∃ v, s.SamePersistent v ∧ Q v ∧ v.CommitsPort j :=
  serve_induction (P := fun u => s.SamePersistent u ∧ u.eng ≠ .idle ∧ Q u)
    (Q := fun t => t.flags j ≠ s.flags j → ∃ v, s.SamePersistent v ∧ Q v ∧ v.CommitsPort j)
    (busy := fun _ _ _ ⟨hsame, hbusy, hQ⟩ hv hvbusy =>
      have hbus := answersBus_of_busy hbusy hv
      ⟨hsame.trans (envStep_samePersistent_of_busy hbus hv hvbusy), hvbusy, hkept hQ hbus hv hvbusy⟩)
    (ends := fun _ u _ ⟨hsame, hbusy, hQ⟩ hv _ hj =>
      ⟨u, hsame, hQ, envStep_changes (answersBus_of_busy hbusy hv) hv (hsame.flags_eq j ▸ hj)⟩)
    (waits := fun _ ⟨hsame, _⟩ hj => absurd (hsame.flags_eq j) hj) (env := fun _ _ hQ => hQ)
    ⟨hsame, hbusy, hQ⟩ h hj

/-- A run that changes a port goes on past a byte at which no commit runs. -/
theorem serve_cons_of_changes {b : Byte} {es : List EnvEvent} (h : serve (.rx b :: es) u = .next t)
    (hj : t.flags j ≠ s.flags j) (hsame : s.SamePersistent u) (hread : u.eng ≠ .rdEchoRx) (hwrite : u.eng ≠ .pwEchoRx) :
    ∃ v, receiveStep b u = .next v ∧ v.eng ≠ .idle ∧ s.SamePersistent v ∧ serve es v = .next t := by
  cases hv : envStep (.rx b) u with
  | next v =>
    have hsame' : s.SamePersistent v := by
      obtain hsame' | ⟨_, -, hcommits⟩ := envStep_samePersistent_or_commits rfl hv
      · exact hsame.trans hsame'
      · exact (hcommits.position.elim hread hwrite).elim
    by_cases hidle : v.eng = .idle
    · rw [serve_cons_idle hv hidle] at h
      cases h
      exact absurd (hsame'.flags_eq j) hj
    · exact ⟨v, hv, hidle, hsame', (serve_cons_busy hv hidle).symm.trans h⟩
  | fault f => rw [serve_cons_fault hv] at h; cases h
  | refused q => simp [serve, hv] at h

/-! ### Past the channel byte -/

/-- The positions of a read after its channel byte. -/
def readTail : List Eng := [.rdLenTx, .rdDataTx, .rdCrcTx, .rdEchoRx]

/-- The positions of a port write after its length byte. -/
def writeTail : List Eng := [.pwData, .pwCrcTx, .pwEchoRx]

theorem trailerStep_address {q : Eng} (h : trailerStep (fun s => { s with eng := q }) s = .next t) :
    t.tag = s.tag ∧ t.chan = s.chan := by
  obtain ⟨c, i, -, -, rfl⟩ := trailerStep_eq_next.mp h
  split <;> exact ⟨rfl, rfl⟩

theorem echoStep_address {commit : State → Result State} {e : Byte}
    (hcommit : ∀ u v, commit u = .next v → v.eng = .idle) (h : echoStep commit e s = .next t) (hbusy : t.eng ≠ .idle) :
    t.tag = s.tag ∧ t.chan = s.chan := by
  obtain ⟨i, -, ⟨-, rfl⟩ | ⟨-, lo, c, -, -, ⟨-, rfl⟩ | ⟨-, h⟩⟩⟩ := echoStep_eq_next.mp h
  · exact ⟨rfl, rfl⟩
  · exact absurd rfl hbusy
  · exact absurd (hcommit _ _ h) hbusy

/-- Past the channel byte nothing replaces the tag or the channel. -/
theorem envStep_address {e : EnvEvent} (heng : s.eng ∈ readTail ++ writeTail) (hbus : e.answersBus = true)
    (h : envStep e s = .next t) (hbusy : t.eng ≠ .idle) : t.tag = s.tag ∧ t.chan = s.chan := by
  cases e with
  | rx b =>
    change receiveStep b s = .next t at h
    cases hpos : s.eng <;> simp [hpos, readTail, writeTail] at heng <;>
      simp only [receiveStep, hpos, reduceCtorEq] at h
    case rdEchoRx => exact echoStep_address (fun _ _ => readCommit_eng) h hbusy
    case pwEchoRx => exact echoStep_address (fun _ _ => portCommit_eng) h hbusy
    case pwData =>
      obtain ⟨c, i, n, -, -, -, -, -, rfl⟩ := pwDataStep_eq_next h
      split <;> exact ⟨rfl, rfl⟩
  | txDone =>
    change transmitStep s = .next t at h
    cases hpos : s.eng <;> simp [hpos, readTail, writeTail] at heng <;>
      simp only [transmitStep, hpos, reduceCtorEq] at h
    case rdLenTx =>
      obtain ⟨n, c, y, k, -, -, -, -, ⟨cause, -, rfl⟩ | ⟨bytes, -, -, rfl⟩⟩ := rdLenStep_eq_next h
      · exact absurd rfl hbusy
      · exact ⟨rfl, rfl⟩
    case rdDataTx =>
      obtain ⟨i, n, b, c, -, -, -, -, -, rfl⟩ := rdDataStep_eq_next h
      split <;> exact ⟨rfl, rfl⟩
    case rdCrcTx => exact trailerStep_address (q := .rdEchoRx) h
    case pwCrcTx => exact trailerStep_address (q := .pwEchoRx) h
  | abort =>
    cases h
    exact absurd (busAbort_eng s) hbusy
  | iter sample => cases hbus
  | ext y body => cases hbus

/-- Positions that lead only to one another and to `IDLE`. -/
theorem keptInside_positions {tail : List Eng} (hclosed : ∀ p ∈ tail, ∀ q ∈ p.successors, q = .idle ∨ q ∈ tail) :
    KeptInside fun s => s.eng ∈ tail := fun {e s t} hpos hbus h hbusy =>
  (hclosed s.eng hpos t.eng (engineFollowsItsPositions s t e hbus h)).resolve_left hbusy

/-- With them, past the channel byte, tag and channel stay. -/
theorem keptInside_address {tail : List Eng} {y c : Byte} (htail : tail ⊆ readTail ++ writeTail)
    (hclosed : ∀ p ∈ tail, ∀ q ∈ p.successors, q = .idle ∨ q ∈ tail) :
    KeptInside fun s => s.tag = some y ∧ s.chan = some c ∧ s.eng ∈ tail := by
  intro e s t ⟨htag, hchan, hpos⟩ hbus h hbusy
  obtain ⟨htag', hchan'⟩ := envStep_address (htail hpos) hbus h hbusy
  exact ⟨htag'.trans htag, hchan'.trans hchan, keptInside_positions hclosed hpos hbus h hbusy⟩

/-! ### The transactions -/

/-- Any run from inside a transaction changes only ports that exist. -/
theorem serve_changes_lt {es : List EnvEvent} (hsame : s.SamePersistent u) (hbusy : u.eng ≠ .idle)
    (h : serve es u = .next t) (hj : t.flags j ≠ s.flags j) : j < s.cfg.nPort := by
  obtain ⟨v, hsame, -, y, c, -, -, -, hlt, -⟩ :=
    serve_changes (Q := fun _ => True) (fun _ _ _ _ => trivial) hsame hbusy trivial h hj
  rwa [hsame.1] at hlt

/-- Past the channel byte a read changes the port of its channel alone, and only where its tag is the port's (R203). -/
theorem serve_readTail_changes {y c : Byte} {es : List EnvEvent} (hsame : s.SamePersistent u) (heng : u.eng = .rdLenTx)
    (htag : u.tag = some y) (hchan : u.chan = some c) (h : serve es u = .next t) (hj : t.flags j ≠ s.flags j) :
    lookup s.cfg y = some .port ∧ c ≠ 0 ∧ j = portOf c := by
  obtain ⟨v, hsame, ⟨htag, hchan, hpos⟩, y', c', htag', hchan', hjc, -, ⟨-, hy, hc⟩ | hwrite⟩ :=
    serve_changes (keptInside_address (tail := readTail) (by decide) (by decide)) hsame (heng ▸ nofun)
      ⟨htag, hchan, heng ▸ .head _⟩ h hj
  · obtain rfl := Option.some.inj (htag.symm.trans htag')
    obtain rfl := Option.some.inj (hchan.symm.trans hchan')
    exact ⟨hsame.1 ▸ hy, hc, hjc⟩
  · rw [hwrite] at hpos
    exact absurd hpos (by decide)

/-- Past the length byte a port write changes the port of its channel alone (R179, R180). -/
theorem serve_writeTail_changes {y c : Byte} {es : List EnvEvent} (hsame : s.SamePersistent u) (heng : u.eng = .pwData)
    (htag : u.tag = some y) (hchan : u.chan = some c) (h : serve es u = .next t)
    (hj : t.flags j ≠ s.flags j) : j = portOf c := by
  obtain ⟨v, -, ⟨-, hchan, -⟩, y', c', -, hchan', hjc, -⟩ :=
    serve_changes (keptInside_address (tail := writeTail) (by decide) (by decide)) hsame (heng ▸ nofun)
      ⟨htag, hchan, heng ▸ .head _⟩ h hj
  obtain rfl := Option.some.inj (hchan.symm.trans hchan')
  exact hjc

/-- A read up to its channel byte. -/
theorem serve_read_changes {y c : Byte} {es : List EnvEvent} (hidle : s.eng = .idle)
    (h : serve (.rx 0xF2 :: .rx y :: .rx c :: es) s = .next t) (hj : t.flags j ≠ s.flags j) :
    lookup s.cfg y = some .port ∧ c ≠ 0 ∧ j = portOf c := by
  rw [serve_cons_busy (envStep_readCode hidle) nofun] at h
  obtain ⟨u, hu, hbusy, hsame, h⟩ := serve_cons_of_changes (s := s) h hj (.refl s) nofun nofun
  obtain ⟨_, -, ⟨-, rfl⟩ | ⟨-, rfl⟩⟩ := rdTagStep_eq_next ((receiveStep_rdTag rfl _).symm.trans hu)
  · exact absurd rfl hbusy
  obtain ⟨u, hu, hbusy, hsame, h⟩ := serve_cons_of_changes h hj hsame nofun nofun
  obtain ⟨_, _, -, -, ⟨_, rfl, -⟩ | ⟨_, -, -, rfl⟩⟩ :=
    rdChanStep_eq_next ((receiveStep_rdChan rfl _).symm.trans hu)
  · exact absurd rfl hbusy
  exact serve_readTail_changes hsame rfl rfl rfl h hj

/-- A port write up to its length byte, where a reserved length changes no port (R175). -/
theorem serve_portWrite_changes {k n : Byte} {es : List EnvEvent} (hrest : s.AtRest)
    (h : serve (.rx 0xF4 :: .rx s.cfg.portTag :: .rx k :: .rx n :: es) s = .next t) (hj : t.flags j ≠ s.flags j) :
    (n = 1 ∨ n = 2) ∧ namesPort s.cfg k = true ∧ j = portOf k := by
  rw [serve_cons_busy (envStep_writeCode hrest.2) nofun, serve_cons_busy (envStep_wrTag_port
    (s := { s with crc := some _, eng := .wrTag }) rfl rfl (lookup_portTag hrest.cfg_wf)) nofun] at h
  obtain ⟨u, hu, hbusy, hsame, h⟩ := serve_cons_of_changes (s := s) h hj (.refl s) nofun nofun
  obtain ⟨_, -, hchan⟩ := pwChanStep_eq_next ((receiveStep_pwChan rfl _).symm.trans hu)
  by_cases hk : namesPort s.cfg k = true
  case neg => exact absurd (congrArg State.eng (hchan.trans (if_neg hk))) hbusy
  obtain rfl := hchan.trans (if_pos hk)
  obtain ⟨u, hu, hbusy, hsame, h⟩ := serve_cons_of_changes h hj hsame nofun nofun
  obtain ⟨_, -, hlen⟩ := pwLenStep_eq_next ((receiveStep_pwLen rfl _).symm.trans hu)
  by_cases hn : portWriteLenOk n = true
  case neg => exact absurd (congrArg State.eng (hlen.trans (if_neg hn))) hbusy
  obtain rfl := hlen.trans (if_pos hn)
  exact ⟨by simpa [portWriteLenOk] using hn, hk,
    serve_writeTail_changes hsame rfl rfl rfl h hj⟩

/-- A generic write changes a port only where its tag is the port's: an EXTERNAL write reaches no port (R61). -/
theorem serve_write_changes {y : Byte} {es : List EnvEvent} (hidle : s.eng = .idle)
    (h : serve (.rx 0xF4 :: .rx y :: es) s = .next t) (hj : t.flags j ≠ s.flags j) :
    lookup s.cfg y = some .port ∧ j < s.cfg.nPort := by
  rw [serve_cons_busy (envStep_writeCode hidle) nofun] at h
  obtain ⟨u, hu, hbusy, hsame, h⟩ := serve_cons_of_changes (s := s) h hj (.refl s) nofun nofun
  obtain ⟨_, -, ⟨-, rfl⟩ | ⟨-, rfl⟩ | ⟨hy, -⟩ | ⟨-, hnext⟩⟩ :=
    wrTagStep_eq_next ((receiveStep_wrTag rfl _).symm.trans hu)
  · exact absurd rfl hbusy
  · exact absurd rfl hbusy
  · exact ⟨hy, serve_changes_lt hsame hbusy h hj⟩
  · have hxw : u.eng ∈ [Eng.xw] := List.mem_singleton.mpr ((xwNext_eng hnext).resolve_right hbusy)
    obtain ⟨v, -, hpos, y', c, -, -, -, -, ⟨hecho, -⟩ | hecho⟩ :=
      serve_changes (keptInside_positions (tail := [.xw]) (by decide)) hsame hbusy hxw h hj
    all_goals
      rw [hecho] at hpos
      exact absurd hpos (by decide)

/-- A function code alone: the bytes after it come from the script, so only the bound on the port is left. -/
theorem serve_code_changes {b : Byte} {es : List EnvEvent} (hrest : s.AtRest) (h : serve (.rx b :: es) s = .next t)
    (hj : t.flags j ≠ s.flags j) : (b = 0xF2 ∨ b = 0xF4) ∧ j < s.cfg.nPort := by
  obtain ⟨u, hu, hbusy, hsame, h⟩ :=
    serve_cons_of_changes h hj (.refl s) (hrest.2 ▸ nofun) (hrest.2 ▸ nofun)
  refine ⟨?code, serve_changes_lt hsame hbusy h hj⟩
  by_contra hcode
  obtain ⟨hread, hwrite⟩ := not_or.mp hcode
  cases hu.symm.trans (envStep_unknownCode hrest.2 hread hwrite)
  exact hbusy rfl

/-- Settles O19: an instruction is the run of its request bytes, and these fix the tag and the channel of its commit. -/
theorem onlyTheAddressedPortChanges : Obligations.OnlyTheAddressedPortChanges := by
  intro i s t j hrest h hj
  cases i with
  | genericRead y c => exact serve_read_changes hrest.2 h hj
  | genericWrite y => exact serve_write_changes hrest.2 h hj
  | unknownFunction b => exact serve_code_changes hrest h hj
  | pbitmap =>
    obtain ⟨-, hc, -⟩ := serve_read_changes (c := 0) hrest.2 h hj
    exact hc rfl
  | preadStatus k => exact (serve_read_changes hrest.2 h hj).2
  | pset k v => exact (serve_portWrite_changes hrest h hj).2
  | pflags k v m => exact (serve_portWrite_changes hrest h hj).2
  | portWriteBadLength k n => exact serve_portWrite_changes hrest h hj

end Sys2Proof.Machine
